-- ==== Sys2Proof/Word.lean ====
section
/-!
DEFINITION. The core's word types (00_scope.md R7, R9 to R11): bytes, 16-bit words, and source text.
-/
namespace Sys2Proof

/-- An 8-bit register or memory byte (R7). -/
abbrev Byte := BitVec 8

/-- A 16-bit register, address or two-byte datum (R7). -/
abbrev Word := BitVec 16

/-- Program text, and any part of it: a list of characters (30_encoding.md R110). -/
abbrev Text := List Char

/-- A label name, upper-case (R112, R113). -/
abbrev Label := Text

end Sys2Proof
end

