-- ==== Sys2Proof/Config.lean ====
section
/-!
DEFINITION. The implementation parameters of 00_scope.md R8, their defaults, and the values the spec leaves open.
Each open value is an opaque constant: no proof can see what it is.
-/
namespace Sys2Proof

/-- `LOAD16_N_BIT`: which bit of a 16-bit load N copies (41_load_store.md R246). -/
inductive SignBit where
  | bit7
  | bit15
deriving DecidableEq, Repr, Inhabited

/-- `CMP_OPERAND_STORE`: the store CMPA and CMPB read a memory operand from (42_add_sub_compare.md R274). -/
inductive OperandStore where
  | data
  | program
deriving DecidableEq, Repr

/-- `CALL_INSNS`: whether JSR and BSR are rows of the opcode ROM (30_encoding.md R156). -/
inductive Admission where
  | admitted
  | refused
deriving DecidableEq, Repr

/-- `MIXED_WIDTH_MOVE`: TFR and EXG between an 8-bit and a 16-bit register (45_register_move.md R363). -/
inductive MixedMove where
  | zeroExtendTruncate
  | fault
deriving DecidableEq, Repr

/-- `H_ON_ADD`: what ADDA and ADDB do to H (10_state.md R48). -/
inductive HalfCarryRule where
  | unchanged
  | draw
deriving DecidableEq, Repr

/-- `IMM_SIZE_RULE`: the byte count of a 16-bit immediate (30_encoding.md R161). -/
inductive ImmSizeRule where
  | registerWidth
  | literalDigits
deriving DecidableEq, Repr

/-- The parameters of R8 that a rule reads. `RUN_FUEL` is an argument of the Run command
(Machine/Commands.lean), because it is a device of the model. -/
structure Params where
  load16NBit : SignBit
  /-- `COM_CARRY`, the C that COM writes (R342). -/
  comCarry : Bool
  cmpOperandStore : OperandStore
  callInsns : Admission
  /-- `CALL_STACK_DEPTH`; `none` is unbounded (R392). -/
  callStackDepth : Option Nat
  mixedWidthMove : MixedMove
  hOnAdd : HalfCarryRule
  immSizeRule : ImmSizeRule
  /-- `PROGRAM_TOP`, the last address a program may use (R175). -/
  programTop : Word
deriving DecidableEq, Repr

namespace Config

/-- `BASE`, the address of line 0 (R7). -/
def base : Nat := 0xFE00

/-- The value of the OPEN parameter `LOAD16_N_BIT` after reset: free (R8, D22; log 2). -/
opaque load16NBit : SignBit

/-- The k-th value drawn for H under `H_ON_ADD = Draw`: free (R48; log 3). -/
opaque drawnH : Nat → Bool

/-- Upper case of a character outside ASCII: free (R111 step 2; log 5). -/
opaque upperOther : Char → Char

/-- Whether a control character other than tab, line feed and carriage return, or a character outside
ASCII, is whitespace: free (R111 steps 3 and 6; log 6). -/
opaque spaceOther : Char → Bool

/-- Whether a character outside ASCII is a letter: free (R127; log 7). -/
opaque letterOther : Char → Bool

/-- The defaults of R8; `LOAD16_N_BIT` has none. -/
def defaults : Params where
  load16NBit := load16NBit
  comCarry := true
  cmpOperandStore := .data
  callInsns := .admitted
  callStackDepth := none
  mixedWidthMove := .zeroExtendTruncate
  hOnAdd := .unchanged
  immSizeRule := .registerWidth
  programTop := 0xFFFF#16

end Config
end Sys2Proof
end

