-- ==== Sys2Proof/Machine/Text.lean ====
section
/-!
DEFINITION. Characters and numerals of source text: upper case, whitespace, letters, hexadecimal and decimal
(30_encoding.md R111, R112, R121 to R127), read and written.
-/
namespace Sys2Proof

/-- The upper case of a character (R111 step 2, R112). Outside ASCII it is free (log 5). -/
def upperChar (c : Char) : Char :=
  if c.toNat < 128 then
    if 97 ≤ c.toNat ∧ c.toNat ≤ 122 then Char.ofNat (c.toNat - 32) else c
  else Config.upperOther c

/-- Whitespace: space, tab, line feed and carriage return are, printable ASCII is not, and for any other
character it is free (R110, R111 steps 3 and 6; log 6). -/
def isSpace (c : Char) : Bool :=
  if c.toNat = 32 ∨ c.toNat = 9 ∨ c.toNat = 10 ∨ c.toNat = 13 then true
  else if 33 ≤ c.toNat ∧ c.toNat ≤ 126 then false
  else Config.spaceOther c

/-- A letter of normalised text (R127). Outside ASCII it is free (log 7). -/
def isLetter (c : Char) : Bool :=
  if c.toNat < 128 then
    decide (65 ≤ c.toNat ∧ c.toNat ≤ 90) || decide (97 ≤ c.toNat ∧ c.toNat ≤ 122)
  else Config.letterOther c

/-- The text without leading whitespace. -/
def trimLeft : Text → Text
  | [] => []
  | c :: cs => if isSpace c then trimLeft cs else c :: cs

/-- The text without leading and trailing whitespace (R111 step 3). -/
def trim (t : Text) : Text :=
  (trimLeft (trimLeft t).reverse).reverse

/-- Tokens of `t`, where `cur` holds the characters of the token being read (R111 step 6). -/
def tokensFrom (cur : Text) : Text → List Text
  | [] => if cur.isEmpty then [] else [cur]
  | c :: cs =>
    if isSpace c then
      if cur.isEmpty then tokensFrom [] cs else cur :: tokensFrom [] cs
    else tokensFrom (cur ++ [c]) cs

/-- The text split at runs of whitespace (R111 step 6). -/
def tokens (t : Text) : List Text :=
  tokensFrom [] t

/-- The lines of a text, split at each line feed (R110); `cur` holds the line being read. -/
def linesFrom (cur : Text) : Text → List Text
  | [] => [cur]
  | c :: cs => if c = '\n' then cur :: linesFrom [] cs else linesFrom (cur ++ [c]) cs

/-- The program text split into its lines 0..n-1 (R110). -/
def splitLines (t : Text) : List Text :=
  linesFrom [] t

/-- The value of a decimal digit. -/
def decDigit (c : Char) : Option Nat :=
  if 48 ≤ c.toNat ∧ c.toNat ≤ 57 then some (c.toNat - 48) else none

/-- The value of a hexadecimal digit of normalised (upper-case) text. -/
def hexDigit (c : Char) : Option Nat :=
  if 48 ≤ c.toNat ∧ c.toNat ≤ 57 then some (c.toNat - 48)
  else if 65 ≤ c.toNat ∧ c.toNat ≤ 70 then some (c.toNat - 55)
  else none

/-- The value of a digit string in a base, after the digits read so far gave `acc`. -/
def digitsFrom (base : Nat) (digit : Char → Option Nat) (acc : Nat) : Text → Option Nat
  | [] => some acc
  | c :: cs =>
    match digit c with
    | some d => digitsFrom base digit (base * acc + d) cs
    | none => none

/-- The value of one or more hexadecimal digits. -/
def parseHex (t : Text) : Option Nat :=
  if t.isEmpty then none else digitsFrom 16 hexDigit 0 t

/-- The value of one or more decimal digits. -/
def parseDec (t : Text) : Option Nat :=
  if t.isEmpty then none else digitsFrom 10 decDigit 0 t

/-- The upper-case hexadecimal digit of a value below 16. -/
def hexChar (d : Nat) : Char :=
  if d < 10 then Char.ofNat (48 + d) else Char.ofNat (55 + d)

/-- A byte as two hexadecimal digits (00_scope.md R9). -/
def hexByte (b : Byte) : Text :=
  [hexChar (b.toNat / 16), hexChar (b.toNat % 16)]

end Sys2Proof
end

