-- ==== Sys2Proof/Syntax.lean ====
section
/-!
DEFINITION. The instructions of `AO6809-subset`: one constructor of `Instr` for each row of spec/opcode_table.json
(30_encoding.md R150), the operand forms of R117 to R128, and the source line of R111.
-/
namespace Sys2Proof

/-- The accumulators (10_state.md R33, R34). -/
inductive Acc where
  | a
  | b
deriving DecidableEq, Repr

/-- The registers an Indexed operand and a 16-bit load or store may name (R36, R124). -/
inductive IdxReg where
  | x
  | y
  | u
  | s
deriving DecidableEq, Repr

/-- The letters a TFR or EXG operand may hold (30_encoding.md R127). D has a code and no register (R37). -/
inductive PairReg where
  | d
  | x
  | y
  | u
  | s
  | a
  | b
deriving DecidableEq, Repr

/-- The addressing modes, a closed set (R117). -/
inductive Mode where
  | inherent
  | immediate
  | direct
  | indexed
  | extended
  | relative
  | registerPair
deriving DecidableEq, Repr

/-- A memory operand (R122 to R125). An Indexed offset is kept as its byte `trunc_8(offset)`. -/
inductive MemOperand where
  | direct (nn : Byte)
  | indexed (r : IdxReg) (off : Byte)
  | extended (hhhh : Word)
deriving DecidableEq, Repr

/-- A 16-bit immediate: two operand bytes, or one, which only `IMM_SIZE_RULE = LiteralDigits` gives (R161). -/
inductive Imm16 where
  | byte (ii : Byte)
  | word (hhll : Word)
deriving DecidableEq, Repr

/-- An 8-bit source operand: Immediate or memory (40_execution_cycle.md R221, `operand8`). -/
inductive Src8 where
  | imm (ii : Byte)
  | mem (m : MemOperand)
deriving DecidableEq, Repr

/-- A 16-bit source operand: Immediate or memory (R221, `operand16`). -/
inductive Src16 where
  | imm (v : Imm16)
  | mem (m : MemOperand)
deriving DecidableEq, Repr

/-- Any decoded operand, with the mode it stands for. -/
inductive Operand where
  | inherent
  | imm8 (ii : Byte)
  | imm16 (v : Imm16)
  | mem (m : MemOperand)
  | label (l : Label)
  | pair (r1 r2 : PairReg)
deriving DecidableEq, Repr

/-- The 60 mnemonics of the opcode ROM (R150). -/
inductive Mnemonic where
  | lda | ldb | ldx | ldy | ldu | lds
  | sta | stb | stx | sty | stu | sts
  | adda | addb | suba | subb | cmpa | cmpb
  | inca | incb | deca | decb | lsla | lslb
  | lsra | lsrb | rola | rolb | rora | rorb
  | anda | andb | ora | orb | eora | eorb
  | clra | clrb | coma | comb | nega | negb
  | tfr | exg | jmp | bra | beq | bne
  | bmi | bpl | bcc | bcs | bvc | bvs
  | jsr | bsr | rts | swi | endProgram | nop
deriving DecidableEq, Repr

/-- One constructor for each row of spec/opcode_table.json, in the table's order. -/
inductive Instr where
  | ldaImmediate (ii : Byte)
  | ldaDirect (nn : Byte)
  | ldaIndexed (r : IdxReg) (off : Byte)
  | ldaExtended (hhhh : Word)
  | ldbImmediate (ii : Byte)
  | ldbDirect (nn : Byte)
  | ldbIndexed (r : IdxReg) (off : Byte)
  | ldbExtended (hhhh : Word)
  | ldxImmediate (imm : Imm16)
  | ldxDirect (nn : Byte)
  | ldxIndexed (r : IdxReg) (off : Byte)
  | ldxExtended (hhhh : Word)
  | ldyImmediate (imm : Imm16)
  | ldyDirect (nn : Byte)
  | ldyIndexed (r : IdxReg) (off : Byte)
  | ldyExtended (hhhh : Word)
  | lduImmediate (imm : Imm16)
  | lduDirect (nn : Byte)
  | lduIndexed (r : IdxReg) (off : Byte)
  | lduExtended (hhhh : Word)
  | ldsImmediate (imm : Imm16)
  | ldsDirect (nn : Byte)
  | ldsIndexed (r : IdxReg) (off : Byte)
  | ldsExtended (hhhh : Word)
  | staDirect (nn : Byte)
  | staIndexed (r : IdxReg) (off : Byte)
  | staExtended (hhhh : Word)
  | stbDirect (nn : Byte)
  | stbIndexed (r : IdxReg) (off : Byte)
  | stbExtended (hhhh : Word)
  | stxDirect (nn : Byte)
  | stxIndexed (r : IdxReg) (off : Byte)
  | stxExtended (hhhh : Word)
  | styDirect (nn : Byte)
  | styIndexed (r : IdxReg) (off : Byte)
  | styExtended (hhhh : Word)
  | stuDirect (nn : Byte)
  | stuIndexed (r : IdxReg) (off : Byte)
  | stuExtended (hhhh : Word)
  | stsDirect (nn : Byte)
  | stsIndexed (r : IdxReg) (off : Byte)
  | stsExtended (hhhh : Word)
  | addaImmediate (ii : Byte)
  | addaDirect (nn : Byte)
  | addaIndexed (r : IdxReg) (off : Byte)
  | addaExtended (hhhh : Word)
  | addbImmediate (ii : Byte)
  | addbDirect (nn : Byte)
  | addbIndexed (r : IdxReg) (off : Byte)
  | addbExtended (hhhh : Word)
  | subaImmediate (ii : Byte)
  | subaDirect (nn : Byte)
  | subaIndexed (r : IdxReg) (off : Byte)
  | subaExtended (hhhh : Word)
  | subbImmediate (ii : Byte)
  | subbDirect (nn : Byte)
  | subbIndexed (r : IdxReg) (off : Byte)
  | subbExtended (hhhh : Word)
  | cmpaImmediate (ii : Byte)
  | cmpaDirect (nn : Byte)
  | cmpaIndexed (r : IdxReg) (off : Byte)
  | cmpaExtended (hhhh : Word)
  | cmpbImmediate (ii : Byte)
  | cmpbDirect (nn : Byte)
  | cmpbIndexed (r : IdxReg) (off : Byte)
  | cmpbExtended (hhhh : Word)
  | inca
  | incb
  | deca
  | decb
  | lsla
  | lslb
  | lsra
  | lsrb
  | rola
  | rolb
  | rora
  | rorb
  | andaImmediate (ii : Byte)
  | andaDirect (nn : Byte)
  | andaIndexed (r : IdxReg) (off : Byte)
  | andaExtended (hhhh : Word)
  | andbImmediate (ii : Byte)
  | andbDirect (nn : Byte)
  | andbIndexed (r : IdxReg) (off : Byte)
  | andbExtended (hhhh : Word)
  | oraImmediate (ii : Byte)
  | oraDirect (nn : Byte)
  | oraIndexed (r : IdxReg) (off : Byte)
  | oraExtended (hhhh : Word)
  | orbImmediate (ii : Byte)
  | orbDirect (nn : Byte)
  | orbIndexed (r : IdxReg) (off : Byte)
  | orbExtended (hhhh : Word)
  | eoraImmediate (ii : Byte)
  | eoraDirect (nn : Byte)
  | eoraIndexed (r : IdxReg) (off : Byte)
  | eoraExtended (hhhh : Word)
  | eorbImmediate (ii : Byte)
  | eorbDirect (nn : Byte)
  | eorbIndexed (r : IdxReg) (off : Byte)
  | eorbExtended (hhhh : Word)
  | clra
  | clrb
  | coma
  | comb
  | nega
  | negb
  | tfr (r1 : PairReg) (r2 : PairReg)
  | exg (r1 : PairReg) (r2 : PairReg)
  | jmp (l : Label)
  | bra (l : Label)
  | beq (l : Label)
  | bne (l : Label)
  | bmi (l : Label)
  | bpl (l : Label)
  | bcc (l : Label)
  | bcs (l : Label)
  | bvc (l : Label)
  | bvs (l : Label)
  | jsr (l : Label)
  | bsr (l : Label)
  | rts
  | swi
  | endProgram
  | nop
deriving DecidableEq, Repr

/-- The add, subtract and compare family (42_add_sub_compare.md). -/
inductive ArithOp where
  | add
  | sub
  | cmp
deriving DecidableEq, Repr

/-- The bitwise family (44_bitwise_unary.md section 1). -/
inductive LogicOp where
  | and
  | or
  | eor
deriving DecidableEq, Repr

/-- The inherent accumulator operations (43_inc_dec_shift.md, 44_bitwise_unary.md section 2). -/
inductive UnaryOp where
  | inc
  | dec
  | lsl
  | lsr
  | rol
  | ror
  | clr
  | com
  | neg
deriving DecidableEq, Repr

/-- What BRA and the eight conditional branches test (46_control_transfer.md R382 to R390). -/
inductive Cond where
  | always
  | eq
  | ne
  | mi
  | pl
  | cc
  | cs
  | vc
  | vs
deriving DecidableEq, Repr

/-- A preprocessed source line (30_encoding.md R111): the form in which the core keeps its program (R56). -/
inductive Line where
  | blank
  | instr (mnemonic : Text) (operand : Option Text)
deriving DecidableEq, Repr

/-- The error kinds of 60_exceptions.md R500. -/
inductive ErrorKind where
  | syntaxError
  | unsupportedEncoding
  | unknownRegister
  | labelNotFound
  | missingEnd
  | unsupportedInstruction
  | invalidIndexedMode
  | programTooLarge
  | returnAddressNotFound
  | callStackOverflow
deriving DecidableEq, Repr

end Sys2Proof
end

