-- ==== Sys2Proof/WellFormed.lean ====
section
/-!
DEFINITION. Which terms of `Instr` are instructions of the core: the conditions that the types of Syntax.lean do not
already carry. Validation (30_encoding.md R130) admits exactly such operands.
-/
namespace Sys2Proof

/-- A label name that an operand can refer to (R111, R112, R114, R117): not empty, upper-case, without
whitespace, `:`, `;` or `,`, and not starting with `#` or `$`. -/
def labelOk (l : Label) : Bool :=
  !l.isEmpty && l.head? != some '#' && l.head? != some '$' &&
    l.all (fun c => upperChar c == c && !isSpace c && c != ':' && c != ';' && c != ',')

/-- A one-byte 16-bit immediate exists only under `IMM_SIZE_RULE = LiteralDigits` (R161). -/
def imm16Ok (p : Params) : Imm16 → Bool
  | .byte _ => p.immSizeRule == .literalDigits
  | .word _ => true

/-- Well-formed instructions under the parameters `p`: a legal label operand (R126), an immediate width the
size rule allows (R161), and JSR and BSR only when admitted (R156). -/
def Instr.wellFormed (p : Params) (i : Instr) : Bool :=
  match i with
  | .ldxImmediate imm | .ldyImmediate imm | .lduImmediate imm | .ldsImmediate imm => imm16Ok p imm
  | .jmp l | .bra l | .beq l | .bne l | .bmi l | .bpl l | .bcc l | .bcs l | .bvc l | .bvs l => labelOk l
  | .jsr l | .bsr l => p.callInsns == .admitted && labelOk l
  | _ => true

end Sys2Proof
end

