-- ==== Sys2Proof/Decode.lean ====
section
/-!
DEFINITION. The opcode ROM (30_encoding.md R150), the decoding of a source line (R117 to R130), the sizes (R160), the
decoding of bytes (R180), total and rejecting by name, and the encoder (R157 to R168).
-/
namespace Sys2Proof

/-! ## Bytes and words -/

/-- Bits 15..8 of a word (00_scope.md R10). -/
def hiByte (w : Word) : Byte := w.extractLsb' 8 8

/-- Bits 7..0 of a word. -/
def loByte (w : Word) : Byte := w.extractLsb' 0 8

/-- `h : l`, the word with high byte `h` (R10). -/
def joinBytes (h l : Byte) : Word := h ++ l

/-! ## Mnemonics and the opcode ROM -/

/-- The mnemonic's letters. -/
def Mnemonic.text : Mnemonic → Text
  | .lda => ['L', 'D', 'A']
  | .ldb => ['L', 'D', 'B']
  | .ldx => ['L', 'D', 'X']
  | .ldy => ['L', 'D', 'Y']
  | .ldu => ['L', 'D', 'U']
  | .lds => ['L', 'D', 'S']
  | .sta => ['S', 'T', 'A']
  | .stb => ['S', 'T', 'B']
  | .stx => ['S', 'T', 'X']
  | .sty => ['S', 'T', 'Y']
  | .stu => ['S', 'T', 'U']
  | .sts => ['S', 'T', 'S']
  | .adda => ['A', 'D', 'D', 'A']
  | .addb => ['A', 'D', 'D', 'B']
  | .suba => ['S', 'U', 'B', 'A']
  | .subb => ['S', 'U', 'B', 'B']
  | .cmpa => ['C', 'M', 'P', 'A']
  | .cmpb => ['C', 'M', 'P', 'B']
  | .inca => ['I', 'N', 'C', 'A']
  | .incb => ['I', 'N', 'C', 'B']
  | .deca => ['D', 'E', 'C', 'A']
  | .decb => ['D', 'E', 'C', 'B']
  | .lsla => ['L', 'S', 'L', 'A']
  | .lslb => ['L', 'S', 'L', 'B']
  | .lsra => ['L', 'S', 'R', 'A']
  | .lsrb => ['L', 'S', 'R', 'B']
  | .rola => ['R', 'O', 'L', 'A']
  | .rolb => ['R', 'O', 'L', 'B']
  | .rora => ['R', 'O', 'R', 'A']
  | .rorb => ['R', 'O', 'R', 'B']
  | .anda => ['A', 'N', 'D', 'A']
  | .andb => ['A', 'N', 'D', 'B']
  | .ora => ['O', 'R', 'A']
  | .orb => ['O', 'R', 'B']
  | .eora => ['E', 'O', 'R', 'A']
  | .eorb => ['E', 'O', 'R', 'B']
  | .clra => ['C', 'L', 'R', 'A']
  | .clrb => ['C', 'L', 'R', 'B']
  | .coma => ['C', 'O', 'M', 'A']
  | .comb => ['C', 'O', 'M', 'B']
  | .nega => ['N', 'E', 'G', 'A']
  | .negb => ['N', 'E', 'G', 'B']
  | .tfr => ['T', 'F', 'R']
  | .exg => ['E', 'X', 'G']
  | .jmp => ['J', 'M', 'P']
  | .bra => ['B', 'R', 'A']
  | .beq => ['B', 'E', 'Q']
  | .bne => ['B', 'N', 'E']
  | .bmi => ['B', 'M', 'I']
  | .bpl => ['B', 'P', 'L']
  | .bcc => ['B', 'C', 'C']
  | .bcs => ['B', 'C', 'S']
  | .bvc => ['B', 'V', 'C']
  | .bvs => ['B', 'V', 'S']
  | .jsr => ['J', 'S', 'R']
  | .bsr => ['B', 'S', 'R']
  | .rts => ['R', 'T', 'S']
  | .swi => ['S', 'W', 'I']
  | .endProgram => ['E', 'N', 'D']
  | .nop => ['N', 'O', 'P']

/-- Every mnemonic, in the order of R150. -/
def Mnemonic.all : List Mnemonic :=
  [.lda, .ldb, .ldx, .ldy, .ldu, .lds, .sta, .stb, .stx, .sty, .stu, .sts,
   .adda, .addb, .suba, .subb, .cmpa, .cmpb, .inca, .incb, .deca, .decb, .lsla, .lslb,
   .lsra, .lsrb, .rola, .rolb, .rora, .rorb, .anda, .andb, .ora, .orb, .eora, .eorb,
   .clra, .clrb, .coma, .comb, .nega, .negb, .tfr, .exg, .jmp, .bra, .beq, .bne,
   .bmi, .bpl, .bcc, .bcs, .bvc, .bvs, .jsr, .bsr, .rts, .swi, .endProgram, .nop]

/-- JSR and BSR have rows only when `CALL_INSNS = Admitted` (R156). -/
def Mnemonic.admitted (p : Params) (m : Mnemonic) : Bool :=
  !((m == .jsr || m == .bsr) && p.callInsns == .refused)

/-- The mnemonic a word of normalised text spells, if the ROM has a row for it (check V1). -/
def Mnemonic.ofText (p : Params) (t : Text) : Option Mnemonic :=
  Mnemonic.all.find? (fun m => m.text == t && m.admitted p)

/-- The loads whose immediate is 16 bits wide (R161). -/
def Mnemonic.wideImmediate (m : Mnemonic) : Bool :=
  m == .ldx || m == .ldy || m == .ldu || m == .lds

/-- JMP and JSR carry a 2-byte absolute address, every other Relative row a displacement byte (R162). -/
def Mnemonic.longTarget (m : Mnemonic) : Bool :=
  m == .jmp || m == .jsr

/-- One row of the opcode ROM (R150). -/
structure RomRow where
  mnemonic : Mnemonic
  mode : Mode
  opcode : List Byte
deriving DecidableEq, Repr

/-- The rows of 41_load_store.md section 1. -/
def romLoads : List RomRow :=
  [⟨.lda, .immediate, [0x86]⟩, ⟨.lda, .direct, [0x96]⟩, ⟨.lda, .indexed, [0xA6]⟩, ⟨.lda, .extended, [0xB6]⟩,
   ⟨.ldb, .immediate, [0xC6]⟩, ⟨.ldb, .direct, [0xD6]⟩, ⟨.ldb, .indexed, [0xE6]⟩, ⟨.ldb, .extended, [0xF6]⟩,
   ⟨.ldx, .immediate, [0x8E]⟩, ⟨.ldx, .direct, [0x9E]⟩, ⟨.ldx, .indexed, [0xAE]⟩, ⟨.ldx, .extended, [0xBE]⟩,
   ⟨.ldy, .immediate, [0x10, 0x8E]⟩, ⟨.ldy, .direct, [0x10, 0x9E]⟩, ⟨.ldy, .indexed, [0x10, 0xAE]⟩, ⟨.ldy, .extended, [0x10, 0xBE]⟩,
   ⟨.ldu, .immediate, [0xCE]⟩, ⟨.ldu, .direct, [0xDE]⟩, ⟨.ldu, .indexed, [0xEE]⟩, ⟨.ldu, .extended, [0xFE]⟩,
   ⟨.lds, .immediate, [0x10, 0xCE]⟩, ⟨.lds, .direct, [0x10, 0xDE]⟩, ⟨.lds, .indexed, [0x10, 0xEE]⟩, ⟨.lds, .extended, [0x10, 0xFE]⟩]

/-- The rows of 41_load_store.md section 2. The stores have no Immediate row (R151). -/
def romStores : List RomRow :=
  [⟨.sta, .direct, [0x97]⟩, ⟨.sta, .indexed, [0xA7]⟩, ⟨.sta, .extended, [0xB7]⟩,
   ⟨.stb, .direct, [0xD7]⟩, ⟨.stb, .indexed, [0xE7]⟩, ⟨.stb, .extended, [0xF7]⟩,
   ⟨.stx, .direct, [0x9F]⟩, ⟨.stx, .indexed, [0xAF]⟩, ⟨.stx, .extended, [0xBF]⟩,
   ⟨.sty, .direct, [0x10, 0x9F]⟩, ⟨.sty, .indexed, [0x10, 0xAF]⟩, ⟨.sty, .extended, [0x10, 0xBF]⟩,
   ⟨.stu, .direct, [0xDF]⟩, ⟨.stu, .indexed, [0xEF]⟩, ⟨.stu, .extended, [0xFF]⟩,
   ⟨.sts, .direct, [0x10, 0xDF]⟩, ⟨.sts, .indexed, [0x10, 0xEF]⟩, ⟨.sts, .extended, [0x10, 0xFF]⟩]

/-- The rows of 42_add_sub_compare.md. -/
def romArith : List RomRow :=
  [⟨.adda, .immediate, [0x8B]⟩, ⟨.adda, .direct, [0x9B]⟩, ⟨.adda, .indexed, [0xAB]⟩, ⟨.adda, .extended, [0xBB]⟩,
   ⟨.addb, .immediate, [0xCB]⟩, ⟨.addb, .direct, [0xDB]⟩, ⟨.addb, .indexed, [0xEB]⟩, ⟨.addb, .extended, [0xFB]⟩,
   ⟨.suba, .immediate, [0x80]⟩, ⟨.suba, .direct, [0x90]⟩, ⟨.suba, .indexed, [0xA0]⟩, ⟨.suba, .extended, [0xB0]⟩,
   ⟨.subb, .immediate, [0xC0]⟩, ⟨.subb, .direct, [0xD0]⟩, ⟨.subb, .indexed, [0xE0]⟩, ⟨.subb, .extended, [0xF0]⟩,
   ⟨.cmpa, .immediate, [0x81]⟩, ⟨.cmpa, .direct, [0x91]⟩, ⟨.cmpa, .indexed, [0xA1]⟩, ⟨.cmpa, .extended, [0xB1]⟩,
   ⟨.cmpb, .immediate, [0xC1]⟩, ⟨.cmpb, .direct, [0xD1]⟩, ⟨.cmpb, .indexed, [0xE1]⟩, ⟨.cmpb, .extended, [0xF1]⟩]

/-- The rows of 43_inc_dec_shift.md. -/
def romIncShift : List RomRow :=
  [⟨.inca, .inherent, [0x4C]⟩,
   ⟨.incb, .inherent, [0x5C]⟩,
   ⟨.deca, .inherent, [0x4A]⟩,
   ⟨.decb, .inherent, [0x5A]⟩,
   ⟨.lsla, .inherent, [0x48]⟩,
   ⟨.lslb, .inherent, [0x58]⟩,
   ⟨.lsra, .inherent, [0x44]⟩,
   ⟨.lsrb, .inherent, [0x54]⟩,
   ⟨.rola, .inherent, [0x49]⟩,
   ⟨.rolb, .inherent, [0x59]⟩,
   ⟨.rora, .inherent, [0x46]⟩,
   ⟨.rorb, .inherent, [0x56]⟩]

/-- The rows of 44_bitwise_unary.md. -/
def romBitwise : List RomRow :=
  [⟨.anda, .immediate, [0x84]⟩, ⟨.anda, .direct, [0x94]⟩, ⟨.anda, .indexed, [0xA4]⟩, ⟨.anda, .extended, [0xB4]⟩,
   ⟨.andb, .immediate, [0xC4]⟩, ⟨.andb, .direct, [0xD4]⟩, ⟨.andb, .indexed, [0xE4]⟩, ⟨.andb, .extended, [0xF4]⟩,
   ⟨.ora, .immediate, [0x8A]⟩, ⟨.ora, .direct, [0x9A]⟩, ⟨.ora, .indexed, [0xAA]⟩, ⟨.ora, .extended, [0xBA]⟩,
   ⟨.orb, .immediate, [0xCA]⟩, ⟨.orb, .direct, [0xDA]⟩, ⟨.orb, .indexed, [0xEA]⟩, ⟨.orb, .extended, [0xFA]⟩,
   ⟨.eora, .immediate, [0x88]⟩, ⟨.eora, .direct, [0x98]⟩, ⟨.eora, .indexed, [0xA8]⟩, ⟨.eora, .extended, [0xB8]⟩,
   ⟨.eorb, .immediate, [0xC8]⟩, ⟨.eorb, .direct, [0xD8]⟩, ⟨.eorb, .indexed, [0xE8]⟩, ⟨.eorb, .extended, [0xF8]⟩,
   ⟨.clra, .inherent, [0x4F]⟩,
   ⟨.clrb, .inherent, [0x5F]⟩,
   ⟨.coma, .inherent, [0x43]⟩,
   ⟨.comb, .inherent, [0x53]⟩,
   ⟨.nega, .inherent, [0x40]⟩,
   ⟨.negb, .inherent, [0x50]⟩]

/-- The rows of 45_register_move.md, 46_control_transfer.md and 47_system.md. END has no bytes (R155). -/
def romOther : List RomRow :=
  [⟨.tfr, .registerPair, [0x1F]⟩,
   ⟨.exg, .registerPair, [0x1E]⟩,
   ⟨.jmp, .relative, [0x7E]⟩,
   ⟨.bra, .relative, [0x20]⟩,
   ⟨.beq, .relative, [0x27]⟩,
   ⟨.bne, .relative, [0x26]⟩,
   ⟨.bmi, .relative, [0x2B]⟩,
   ⟨.bpl, .relative, [0x2A]⟩,
   ⟨.bcc, .relative, [0x24]⟩,
   ⟨.bcs, .relative, [0x25]⟩,
   ⟨.bvc, .relative, [0x28]⟩,
   ⟨.bvs, .relative, [0x29]⟩,
   ⟨.jsr, .relative, [0xBD]⟩,
   ⟨.bsr, .relative, [0x8D]⟩,
   ⟨.rts, .inherent, [0x39]⟩,
   ⟨.swi, .inherent, [0x3F]⟩,
   ⟨.endProgram, .inherent, []⟩,
   ⟨.nop, .inherent, [0x12]⟩]

/-- The opcode ROM: the 126 rows of R150 and spec/opcode_table.json. -/
def rom : List RomRow :=
  romLoads ++ romStores ++ romArith ++ romIncShift ++ romBitwise ++ romOther

/-- The opcode bytes of (mnemonic, mode), if the ROM has the row. -/
def romOpcode (m : Mnemonic) (md : Mode) : Option (List Byte) :=
  (rom.find? (fun r => r.mnemonic == m && r.mode == md)).map (·.opcode)

/-! ## Registers in encodings -/

/-- The register nibble codes of R128; no other name has one. -/
def nibbleCodes : List (Text × BitVec 4) :=
  [(['D'], 0x0), (['X'], 0x1), (['Y'], 0x2), (['U'], 0x3), (['S'], 0x4), (['P', 'C'], 0x5),
   (['A'], 0x8), (['B'], 0x9), (['C', 'C'], 0xA), (['D', 'P'], 0xB)]

/-- The single letter of a register a TFR or EXG may name. -/
def PairReg.letter : PairReg → Char
  | .d => 'D' | .x => 'X' | .y => 'Y' | .u => 'U' | .s => 'S' | .a => 'A' | .b => 'B'

def PairReg.all : List PairReg := [.d, .x, .y, .u, .s, .a, .b]

/-- The nibble code of a register (R128). -/
def PairReg.code (r : PairReg) : BitVec 4 :=
  (nibbleCodes.lookup [r.letter]).getD 0

/-- The register a letter names. -/
def PairReg.ofLetter (c : Char) : Option PairReg :=
  PairReg.all.find? (fun r => r.letter == c)

/-- The register a nibble stands for, where a TFR or EXG operand can name it: the inverse of the nibble table
(45_register_move.md R364). The nibbles 5, 6, 7 and 0xA to 0xF, which no assembled program holds and for which R364 defines
no behaviour, stand for none (DESIGN CHOICE, log 21). -/
def PairReg.ofCode (k : BitVec 4) : Option PairReg :=
  PairReg.all.find? (fun r => r.code == k)

/-- The name of an index register (R124). -/
def IdxReg.letter : IdxReg → Char
  | .x => 'X' | .y => 'Y' | .u => 'U' | .s => 'S'

/-- The index register a name gives; any other name has none (check V7). -/
def IdxReg.ofText : Text → Option IdxReg
  | ['X'] => some .x
  | ['Y'] => some .y
  | ['U'] => some .u
  | ['S'] => some .s
  | _ => none

/-- The Indexed post-byte, `1 rr 00100` (R165). -/
def IdxReg.postByte : IdxReg → Byte
  | .x => 0x84
  | .y => 0xA4
  | .u => 0xC4
  | .s => 0xE4

/-- The register in the bits `rr` (6..5) of an Indexed post-byte (R165); the fixed bits are not looked at
(R180; DESIGN CHOICE, log 10). -/
def IdxReg.ofPostByte (pb : Byte) : IdxReg :=
  if pb.getLsbD 6 then (if pb.getLsbD 5 then .s else .u) else (if pb.getLsbD 5 then .y else .x)

/-! ## Families of rows that differ only in mode, accumulator or condition -/

/-- LDA and LDB. -/
def Instr.load8 : Acc → Src8 → Instr
  | .a, .imm ii => .ldaImmediate ii
  | .a, .mem (.direct nn) => .ldaDirect nn
  | .a, .mem (.indexed r off) => .ldaIndexed r off
  | .a, .mem (.extended hhhh) => .ldaExtended hhhh
  | .b, .imm ii => .ldbImmediate ii
  | .b, .mem (.direct nn) => .ldbDirect nn
  | .b, .mem (.indexed r off) => .ldbIndexed r off
  | .b, .mem (.extended hhhh) => .ldbExtended hhhh

/-- LDX, LDY, LDU and LDS. -/
def Instr.load16 : IdxReg → Src16 → Instr
  | .x, .imm v => .ldxImmediate v
  | .x, .mem (.direct nn) => .ldxDirect nn
  | .x, .mem (.indexed r off) => .ldxIndexed r off
  | .x, .mem (.extended hhhh) => .ldxExtended hhhh
  | .y, .imm v => .ldyImmediate v
  | .y, .mem (.direct nn) => .ldyDirect nn
  | .y, .mem (.indexed r off) => .ldyIndexed r off
  | .y, .mem (.extended hhhh) => .ldyExtended hhhh
  | .u, .imm v => .lduImmediate v
  | .u, .mem (.direct nn) => .lduDirect nn
  | .u, .mem (.indexed r off) => .lduIndexed r off
  | .u, .mem (.extended hhhh) => .lduExtended hhhh
  | .s, .imm v => .ldsImmediate v
  | .s, .mem (.direct nn) => .ldsDirect nn
  | .s, .mem (.indexed r off) => .ldsIndexed r off
  | .s, .mem (.extended hhhh) => .ldsExtended hhhh

/-- STA and STB. -/
def Instr.store8 : Acc → MemOperand → Instr
  | .a, .direct nn => .staDirect nn
  | .a, .indexed r off => .staIndexed r off
  | .a, .extended hhhh => .staExtended hhhh
  | .b, .direct nn => .stbDirect nn
  | .b, .indexed r off => .stbIndexed r off
  | .b, .extended hhhh => .stbExtended hhhh

/-- STX, STY, STU and STS. -/
def Instr.store16 : IdxReg → MemOperand → Instr
  | .x, .direct nn => .stxDirect nn
  | .x, .indexed r off => .stxIndexed r off
  | .x, .extended hhhh => .stxExtended hhhh
  | .y, .direct nn => .styDirect nn
  | .y, .indexed r off => .styIndexed r off
  | .y, .extended hhhh => .styExtended hhhh
  | .u, .direct nn => .stuDirect nn
  | .u, .indexed r off => .stuIndexed r off
  | .u, .extended hhhh => .stuExtended hhhh
  | .s, .direct nn => .stsDirect nn
  | .s, .indexed r off => .stsIndexed r off
  | .s, .extended hhhh => .stsExtended hhhh

/-- ADD, SUB and CMP on A and B. -/
def Instr.arith : ArithOp → Acc → Src8 → Instr
  | .add, .a, .imm ii => .addaImmediate ii
  | .add, .a, .mem (.direct nn) => .addaDirect nn
  | .add, .a, .mem (.indexed r off) => .addaIndexed r off
  | .add, .a, .mem (.extended hhhh) => .addaExtended hhhh
  | .add, .b, .imm ii => .addbImmediate ii
  | .add, .b, .mem (.direct nn) => .addbDirect nn
  | .add, .b, .mem (.indexed r off) => .addbIndexed r off
  | .add, .b, .mem (.extended hhhh) => .addbExtended hhhh
  | .sub, .a, .imm ii => .subaImmediate ii
  | .sub, .a, .mem (.direct nn) => .subaDirect nn
  | .sub, .a, .mem (.indexed r off) => .subaIndexed r off
  | .sub, .a, .mem (.extended hhhh) => .subaExtended hhhh
  | .sub, .b, .imm ii => .subbImmediate ii
  | .sub, .b, .mem (.direct nn) => .subbDirect nn
  | .sub, .b, .mem (.indexed r off) => .subbIndexed r off
  | .sub, .b, .mem (.extended hhhh) => .subbExtended hhhh
  | .cmp, .a, .imm ii => .cmpaImmediate ii
  | .cmp, .a, .mem (.direct nn) => .cmpaDirect nn
  | .cmp, .a, .mem (.indexed r off) => .cmpaIndexed r off
  | .cmp, .a, .mem (.extended hhhh) => .cmpaExtended hhhh
  | .cmp, .b, .imm ii => .cmpbImmediate ii
  | .cmp, .b, .mem (.direct nn) => .cmpbDirect nn
  | .cmp, .b, .mem (.indexed r off) => .cmpbIndexed r off
  | .cmp, .b, .mem (.extended hhhh) => .cmpbExtended hhhh

/-- AND, OR and EOR on A and B. -/
def Instr.logic : LogicOp → Acc → Src8 → Instr
  | .and, .a, .imm ii => .andaImmediate ii
  | .and, .a, .mem (.direct nn) => .andaDirect nn
  | .and, .a, .mem (.indexed r off) => .andaIndexed r off
  | .and, .a, .mem (.extended hhhh) => .andaExtended hhhh
  | .and, .b, .imm ii => .andbImmediate ii
  | .and, .b, .mem (.direct nn) => .andbDirect nn
  | .and, .b, .mem (.indexed r off) => .andbIndexed r off
  | .and, .b, .mem (.extended hhhh) => .andbExtended hhhh
  | .or, .a, .imm ii => .oraImmediate ii
  | .or, .a, .mem (.direct nn) => .oraDirect nn
  | .or, .a, .mem (.indexed r off) => .oraIndexed r off
  | .or, .a, .mem (.extended hhhh) => .oraExtended hhhh
  | .or, .b, .imm ii => .orbImmediate ii
  | .or, .b, .mem (.direct nn) => .orbDirect nn
  | .or, .b, .mem (.indexed r off) => .orbIndexed r off
  | .or, .b, .mem (.extended hhhh) => .orbExtended hhhh
  | .eor, .a, .imm ii => .eoraImmediate ii
  | .eor, .a, .mem (.direct nn) => .eoraDirect nn
  | .eor, .a, .mem (.indexed r off) => .eoraIndexed r off
  | .eor, .a, .mem (.extended hhhh) => .eoraExtended hhhh
  | .eor, .b, .imm ii => .eorbImmediate ii
  | .eor, .b, .mem (.direct nn) => .eorbDirect nn
  | .eor, .b, .mem (.indexed r off) => .eorbIndexed r off
  | .eor, .b, .mem (.extended hhhh) => .eorbExtended hhhh

/-- The inherent operations on A and B. -/
def Instr.unary : UnaryOp → Acc → Instr
  | .inc, .a => .inca
  | .inc, .b => .incb
  | .dec, .a => .deca
  | .dec, .b => .decb
  | .lsl, .a => .lsla
  | .lsl, .b => .lslb
  | .lsr, .a => .lsra
  | .lsr, .b => .lsrb
  | .rol, .a => .rola
  | .rol, .b => .rolb
  | .ror, .a => .rora
  | .ror, .b => .rorb
  | .clr, .a => .clra
  | .clr, .b => .clrb
  | .com, .a => .coma
  | .com, .b => .comb
  | .neg, .a => .nega
  | .neg, .b => .negb

/-- BRA and the conditional branches. -/
def Instr.branch : Cond → Label → Instr
  | .always, l => .bra l
  | .eq, l => .beq l
  | .ne, l => .bne l
  | .mi, l => .bmi l
  | .pl, l => .bpl l
  | .cc, l => .bcc l
  | .cs, l => .bcs l
  | .vc, l => .bvc l
  | .vs, l => .bvs l

/-! ## An instruction and its parts -/

/-- The mnemonic and the operand of an instruction: its row of the opcode table and what the row leaves open. -/
def Instr.parts : Instr → Mnemonic × Operand
  | .ldaImmediate ii => (.lda, .imm8 ii)
  | .ldaDirect nn => (.lda, .mem (.direct nn))
  | .ldaIndexed r off => (.lda, .mem (.indexed r off))
  | .ldaExtended hhhh => (.lda, .mem (.extended hhhh))
  | .ldbImmediate ii => (.ldb, .imm8 ii)
  | .ldbDirect nn => (.ldb, .mem (.direct nn))
  | .ldbIndexed r off => (.ldb, .mem (.indexed r off))
  | .ldbExtended hhhh => (.ldb, .mem (.extended hhhh))
  | .ldxImmediate imm => (.ldx, .imm16 imm)
  | .ldxDirect nn => (.ldx, .mem (.direct nn))
  | .ldxIndexed r off => (.ldx, .mem (.indexed r off))
  | .ldxExtended hhhh => (.ldx, .mem (.extended hhhh))
  | .ldyImmediate imm => (.ldy, .imm16 imm)
  | .ldyDirect nn => (.ldy, .mem (.direct nn))
  | .ldyIndexed r off => (.ldy, .mem (.indexed r off))
  | .ldyExtended hhhh => (.ldy, .mem (.extended hhhh))
  | .lduImmediate imm => (.ldu, .imm16 imm)
  | .lduDirect nn => (.ldu, .mem (.direct nn))
  | .lduIndexed r off => (.ldu, .mem (.indexed r off))
  | .lduExtended hhhh => (.ldu, .mem (.extended hhhh))
  | .ldsImmediate imm => (.lds, .imm16 imm)
  | .ldsDirect nn => (.lds, .mem (.direct nn))
  | .ldsIndexed r off => (.lds, .mem (.indexed r off))
  | .ldsExtended hhhh => (.lds, .mem (.extended hhhh))
  | .staDirect nn => (.sta, .mem (.direct nn))
  | .staIndexed r off => (.sta, .mem (.indexed r off))
  | .staExtended hhhh => (.sta, .mem (.extended hhhh))
  | .stbDirect nn => (.stb, .mem (.direct nn))
  | .stbIndexed r off => (.stb, .mem (.indexed r off))
  | .stbExtended hhhh => (.stb, .mem (.extended hhhh))
  | .stxDirect nn => (.stx, .mem (.direct nn))
  | .stxIndexed r off => (.stx, .mem (.indexed r off))
  | .stxExtended hhhh => (.stx, .mem (.extended hhhh))
  | .styDirect nn => (.sty, .mem (.direct nn))
  | .styIndexed r off => (.sty, .mem (.indexed r off))
  | .styExtended hhhh => (.sty, .mem (.extended hhhh))
  | .stuDirect nn => (.stu, .mem (.direct nn))
  | .stuIndexed r off => (.stu, .mem (.indexed r off))
  | .stuExtended hhhh => (.stu, .mem (.extended hhhh))
  | .stsDirect nn => (.sts, .mem (.direct nn))
  | .stsIndexed r off => (.sts, .mem (.indexed r off))
  | .stsExtended hhhh => (.sts, .mem (.extended hhhh))
  | .addaImmediate ii => (.adda, .imm8 ii)
  | .addaDirect nn => (.adda, .mem (.direct nn))
  | .addaIndexed r off => (.adda, .mem (.indexed r off))
  | .addaExtended hhhh => (.adda, .mem (.extended hhhh))
  | .addbImmediate ii => (.addb, .imm8 ii)
  | .addbDirect nn => (.addb, .mem (.direct nn))
  | .addbIndexed r off => (.addb, .mem (.indexed r off))
  | .addbExtended hhhh => (.addb, .mem (.extended hhhh))
  | .subaImmediate ii => (.suba, .imm8 ii)
  | .subaDirect nn => (.suba, .mem (.direct nn))
  | .subaIndexed r off => (.suba, .mem (.indexed r off))
  | .subaExtended hhhh => (.suba, .mem (.extended hhhh))
  | .subbImmediate ii => (.subb, .imm8 ii)
  | .subbDirect nn => (.subb, .mem (.direct nn))
  | .subbIndexed r off => (.subb, .mem (.indexed r off))
  | .subbExtended hhhh => (.subb, .mem (.extended hhhh))
  | .cmpaImmediate ii => (.cmpa, .imm8 ii)
  | .cmpaDirect nn => (.cmpa, .mem (.direct nn))
  | .cmpaIndexed r off => (.cmpa, .mem (.indexed r off))
  | .cmpaExtended hhhh => (.cmpa, .mem (.extended hhhh))
  | .cmpbImmediate ii => (.cmpb, .imm8 ii)
  | .cmpbDirect nn => (.cmpb, .mem (.direct nn))
  | .cmpbIndexed r off => (.cmpb, .mem (.indexed r off))
  | .cmpbExtended hhhh => (.cmpb, .mem (.extended hhhh))
  | .inca => (.inca, .inherent)
  | .incb => (.incb, .inherent)
  | .deca => (.deca, .inherent)
  | .decb => (.decb, .inherent)
  | .lsla => (.lsla, .inherent)
  | .lslb => (.lslb, .inherent)
  | .lsra => (.lsra, .inherent)
  | .lsrb => (.lsrb, .inherent)
  | .rola => (.rola, .inherent)
  | .rolb => (.rolb, .inherent)
  | .rora => (.rora, .inherent)
  | .rorb => (.rorb, .inherent)
  | .andaImmediate ii => (.anda, .imm8 ii)
  | .andaDirect nn => (.anda, .mem (.direct nn))
  | .andaIndexed r off => (.anda, .mem (.indexed r off))
  | .andaExtended hhhh => (.anda, .mem (.extended hhhh))
  | .andbImmediate ii => (.andb, .imm8 ii)
  | .andbDirect nn => (.andb, .mem (.direct nn))
  | .andbIndexed r off => (.andb, .mem (.indexed r off))
  | .andbExtended hhhh => (.andb, .mem (.extended hhhh))
  | .oraImmediate ii => (.ora, .imm8 ii)
  | .oraDirect nn => (.ora, .mem (.direct nn))
  | .oraIndexed r off => (.ora, .mem (.indexed r off))
  | .oraExtended hhhh => (.ora, .mem (.extended hhhh))
  | .orbImmediate ii => (.orb, .imm8 ii)
  | .orbDirect nn => (.orb, .mem (.direct nn))
  | .orbIndexed r off => (.orb, .mem (.indexed r off))
  | .orbExtended hhhh => (.orb, .mem (.extended hhhh))
  | .eoraImmediate ii => (.eora, .imm8 ii)
  | .eoraDirect nn => (.eora, .mem (.direct nn))
  | .eoraIndexed r off => (.eora, .mem (.indexed r off))
  | .eoraExtended hhhh => (.eora, .mem (.extended hhhh))
  | .eorbImmediate ii => (.eorb, .imm8 ii)
  | .eorbDirect nn => (.eorb, .mem (.direct nn))
  | .eorbIndexed r off => (.eorb, .mem (.indexed r off))
  | .eorbExtended hhhh => (.eorb, .mem (.extended hhhh))
  | .clra => (.clra, .inherent)
  | .clrb => (.clrb, .inherent)
  | .coma => (.coma, .inherent)
  | .comb => (.comb, .inherent)
  | .nega => (.nega, .inherent)
  | .negb => (.negb, .inherent)
  | .tfr r1 r2 => (.tfr, .pair r1 r2)
  | .exg r1 r2 => (.exg, .pair r1 r2)
  | .jmp l => (.jmp, .label l)
  | .bra l => (.bra, .label l)
  | .beq l => (.beq, .label l)
  | .bne l => (.bne, .label l)
  | .bmi l => (.bmi, .label l)
  | .bpl l => (.bpl, .label l)
  | .bcc l => (.bcc, .label l)
  | .bcs l => (.bcs, .label l)
  | .bvc l => (.bvc, .label l)
  | .bvs l => (.bvs, .label l)
  | .jsr l => (.jsr, .label l)
  | .bsr l => (.bsr, .label l)
  | .rts => (.rts, .inherent)
  | .swi => (.swi, .inherent)
  | .endProgram => (.endProgram, .inherent)
  | .nop => (.nop, .inherent)

def Instr.mnemonic (i : Instr) : Mnemonic := i.parts.1

def Instr.operand (i : Instr) : Operand := i.parts.2

/-- The addressing mode an operand belongs to (R117). -/
def Operand.mode : Operand → Mode
  | .inherent => .inherent
  | .imm8 _ => .immediate
  | .imm16 _ => .immediate
  | .mem (.direct _) => .direct
  | .mem (.indexed _ _) => .indexed
  | .mem (.extended _) => .extended
  | .label _ => .relative
  | .pair _ _ => .registerPair

def Instr.mode (i : Instr) : Mode := i.operand.mode

/-- The label an instruction transfers to, if it has a Relative operand. -/
def Instr.label? (i : Instr) : Option Label :=
  match i.operand with
  | .label l => some l
  | _ => none

def Operand.src8? : Operand → Option Src8
  | .imm8 ii => some (.imm ii)
  | .mem m => some (.mem m)
  | _ => none

def Operand.src16? : Operand → Option Src16
  | .imm16 v => some (.imm v)
  | .mem m => some (.mem m)
  | _ => none

def Operand.mem? : Operand → Option MemOperand
  | .mem m => some m
  | _ => none

def Operand.label? : Operand → Option Label
  | .label l => some l
  | _ => none

/-- An instruction without an operand. -/
def Operand.inherent? (i : Instr) : Operand → Option Instr
  | .inherent => some i
  | _ => none

/-- The instruction with these parts, if the ROM has the row. -/
def Instr.ofParts (m : Mnemonic) (o : Operand) : Option Instr :=
  match m with
  | .lda => o.src8?.map (.load8 .a)
  | .ldb => o.src8?.map (.load8 .b)
  | .ldx => o.src16?.map (.load16 .x)
  | .ldy => o.src16?.map (.load16 .y)
  | .ldu => o.src16?.map (.load16 .u)
  | .lds => o.src16?.map (.load16 .s)
  | .sta => o.mem?.map (.store8 .a)
  | .stb => o.mem?.map (.store8 .b)
  | .stx => o.mem?.map (.store16 .x)
  | .sty => o.mem?.map (.store16 .y)
  | .stu => o.mem?.map (.store16 .u)
  | .sts => o.mem?.map (.store16 .s)
  | .adda => o.src8?.map (.arith .add .a)
  | .addb => o.src8?.map (.arith .add .b)
  | .suba => o.src8?.map (.arith .sub .a)
  | .subb => o.src8?.map (.arith .sub .b)
  | .cmpa => o.src8?.map (.arith .cmp .a)
  | .cmpb => o.src8?.map (.arith .cmp .b)
  | .inca => o.inherent? .inca
  | .incb => o.inherent? .incb
  | .deca => o.inherent? .deca
  | .decb => o.inherent? .decb
  | .lsla => o.inherent? .lsla
  | .lslb => o.inherent? .lslb
  | .lsra => o.inherent? .lsra
  | .lsrb => o.inherent? .lsrb
  | .rola => o.inherent? .rola
  | .rolb => o.inherent? .rolb
  | .rora => o.inherent? .rora
  | .rorb => o.inherent? .rorb
  | .anda => o.src8?.map (.logic .and .a)
  | .andb => o.src8?.map (.logic .and .b)
  | .ora => o.src8?.map (.logic .or .a)
  | .orb => o.src8?.map (.logic .or .b)
  | .eora => o.src8?.map (.logic .eor .a)
  | .eorb => o.src8?.map (.logic .eor .b)
  | .clra => o.inherent? .clra
  | .clrb => o.inherent? .clrb
  | .coma => o.inherent? .coma
  | .comb => o.inherent? .comb
  | .nega => o.inherent? .nega
  | .negb => o.inherent? .negb
  | .tfr => match o with | .pair r1 r2 => some (.tfr r1 r2) | _ => none
  | .exg => match o with | .pair r1 r2 => some (.exg r1 r2) | _ => none
  | .jmp => o.label?.map .jmp
  | .bra => o.label?.map .bra
  | .beq => o.label?.map .beq
  | .bne => o.label?.map .bne
  | .bmi => o.label?.map .bmi
  | .bpl => o.label?.map .bpl
  | .bcc => o.label?.map .bcc
  | .bcs => o.label?.map .bcs
  | .bvc => o.label?.map .bvc
  | .bvs => o.label?.map .bvs
  | .jsr => o.label?.map .jsr
  | .bsr => o.label?.map .bsr
  | .rts => o.inherent? .rts
  | .swi => o.inherent? .swi
  | .endProgram => o.inherent? .endProgram
  | .nop => o.inherent? .nop

/-! ## Sizes -/

/-- The opcode bytes of an instruction (R150). -/
def Instr.opcode (i : Instr) : List Byte :=
  (romOpcode i.mnemonic i.mode).getD []

/-- How many bytes follow the opcode (R159, R161, R162). -/
def operandSize (m : Mnemonic) : Operand → Nat
  | .inherent => 0
  | .imm8 _ => 1
  | .imm16 (.byte _) => 1
  | .imm16 (.word _) => 2
  | .mem (.direct _) => 1
  | .mem (.indexed _ _) => 2
  | .mem (.extended _) => 2
  | .label _ => if m.longTarget then 2 else 1
  | .pair _ _ => 1

/-- The byte length of an instruction: the one size function, of the assembler and of the step (R160, R621). -/
def Instr.size (i : Instr) : Nat :=
  i.opcode.length + operandSize i.mnemonic i.operand

/-! ## Decoding a source line -/

/-- The mode detection of R117, in its precedence order. -/
def detectMode (mn : Text) (op : Option Text) : Mode :=
  if mn == Mnemonic.text .tfr || mn == Mnemonic.text .exg then .registerPair
  else
    match op with
    | none => .inherent
    | some t =>
      if t.isEmpty then .inherent
      else if t.head? == some '#' then .immediate
      else if t.contains ',' then .indexed
      else if t.head? == some '$' then (if t.length - 1 ≤ 2 then .direct else .extended)
      else .relative

/-- The payload of an Immediate operand: what follows `#` and an optional `$` (R121). -/
def immediatePayload : Text → Text
  | '#' :: '$' :: ds => ds
  | '#' :: ds => ds
  | ds => ds

/-- An Immediate operand of the mnemonic's width (R121, R161; check V9). -/
def parseImmediate (p : Params) (m : Mnemonic) (op : Text) : Option Operand :=
  let ds := immediatePayload op
  match parseHex ds with
  | none => none
  | some v =>
    if m.wideImmediate then
      if v < 0x10000 then
        if p.immSizeRule == .literalDigits && decide (ds.length ≤ 2) then some (.imm16 (.byte (BitVec.ofNat 8 v)))
        else some (.imm16 (.word (BitVec.ofNat 16 v)))
      else none
    else if v < 0x100 && (p.immSizeRule == .registerWidth || decide (ds.length ≤ 2)) then
      some (.imm8 (BitVec.ofNat 8 v))
    else none

/-- A Direct operand, `$` and one or two hexadecimal digits (R122; check V10). -/
def parseDirect (op : Text) : Option Operand :=
  (parseHex op.tail).map (fun v => .mem (.direct (BitVec.ofNat 8 v)))

/-- An Extended operand, `$` and three or four hexadecimal digits (R123; check V11). -/
def parseExtended (op : Text) : Option Operand :=
  if op.tail.length ≤ 4 then (parseHex op.tail).map (fun v => .mem (.extended (BitVec.ofNat 16 v))) else none

/-- An unsigned decimal magnitude with its sign, in -128..127 (R125). -/
def signedOffset (negative : Bool) (ds : Text) : Option Byte :=
  match parseDec ds with
  | none => none
  | some v =>
    if negative then (if v ≤ 128 then some (BitVec.ofInt 8 (-(v : Int))) else none)
    else (if v ≤ 127 then some (BitVec.ofNat 8 v) else none)

/-- The offset of an Indexed operand, as its byte (R125; check V8). -/
def parseOffset : Text → Option Byte
  | [] => some 0
  | '$' :: ds => if ds.length ≤ 2 then (parseHex ds).map (BitVec.ofNat 8) else none
  | '-' :: ds => signedOffset true ds
  | '+' :: ds => signedOffset false ds
  | ds => signedOffset false ds

/-- An Indexed operand, split at its first comma: the register is checked first (R124; checks V7, V8). -/
def parseIndexed (op : Text) : Except ErrorKind Operand :=
  match IdxReg.ofText (op.dropWhile (· ≠ ',')).tail with
  | none => .error .invalidIndexedMode
  | some r =>
    match parseOffset (op.takeWhile (· ≠ ',')) with
    | none => .error .syntaxError
    | some off => .ok (.mem (.indexed r off))

/-- A RegisterPair operand: two single letters (check V4), each with a nibble code (check V5) (R127). -/
def parsePair : Text → Except ErrorKind Operand
  | [c1, ',', c2] =>
    if isLetter c1 && isLetter c2 then
      match PairReg.ofLetter c1, PairReg.ofLetter c2 with
      | some r1, some r2 => .ok (.pair r1 r2)
      | _, _ => .error .unknownRegister
    else .error .syntaxError
  | _ => .error .syntaxError

/-- The operand of a line in a mode, by the checks V3 to V5 and V7 to V11 of R130. V6, the label table, is
`validateLine`'s (Machine/Assembler.lean). -/
def parseOperand (p : Params) (m : Mnemonic) (md : Mode) (op : Option Text) : Except ErrorKind Operand :=
  match md, op with
  | .inherent, _ => .ok .inherent
  | _, none => .error .syntaxError
  | .immediate, some t => match parseImmediate p m t with | some o => .ok o | none => .error .syntaxError
  | .direct, some t => match parseDirect t with | some o => .ok o | none => .error .syntaxError
  | .extended, some t => match parseExtended t with | some o => .ok o | none => .error .syntaxError
  | .indexed, some t => parseIndexed t
  | .relative, some t => .ok (.label t)
  | .registerPair, some t => parsePair t

/-- The instruction a line spells, or the kind of the first check of R130 that fails (V1 to V11 without V6). -/
def decodeLine (p : Params) (mn : Text) (op : Option Text) : Except ErrorKind Instr :=
  match Mnemonic.ofText p mn with
  | none => .error .syntaxError
  | some m =>
    match romOpcode m (detectMode mn op) with
    | none => .error .unsupportedEncoding
    | some _ =>
      match parseOperand p m (detectMode mn op) op with
      | .error k => .error k
      | .ok o =>
        match Instr.ofParts m o with
        | some i => .ok i
        | none => .error .unsupportedEncoding

/-! ## Writing an instruction as a line -/

def MemOperand.text : MemOperand → Text
  | .direct nn => '$' :: hexByte nn
  | .indexed r off => '$' :: (hexByte off ++ [',', r.letter])
  | .extended a => '$' :: (hexByte (hiByte a) ++ hexByte (loByte a))

/-- The operand's text in the syntax of R185. -/
def Operand.text : Operand → Option Text
  | .inherent => none
  | .imm8 ii => some ('#' :: '$' :: hexByte ii)
  | .imm16 (.byte ii) => some ('#' :: '$' :: hexByte ii)
  | .imm16 (.word v) => some ('#' :: '$' :: (hexByte (hiByte v) ++ hexByte (loByte v)))
  | .mem m => some m.text
  | .label l => some l
  | .pair r1 r2 => some [r1.letter, ',', r2.letter]

/-- A source line that spells the instruction. -/
def Line.ofInstr (i : Instr) : Line :=
  .instr i.mnemonic.text i.operand.text

/-! ## Decoding bytes

The engine never decodes bytes (R180, R81); `decode` is the inverse of the encoder. -/

/-- Why a byte string is no instruction. -/
inductive DecodeError where
  /-- No opcode string of the ROM begins it (R154, R180). -/
  | noRow
  /-- It ends before the operand does (DESIGN CHOICE, log 21). -/
  | truncated
  /-- A TFR or EXG nibble that no letter of R127 has. 45_register_move.md R364 defines no behaviour for it: that the
  operand decoder rejects it is the model's (DESIGN CHOICE, log 21). -/
  | noRegister (nibble : BitVec 4)
deriving DecidableEq, Repr

/-- The row whose opcode string begins the bytes (R180, R153). END, with no opcode bytes, is never found. -/
def findRow (p : Params) (bs : List Byte) : Option RomRow :=
  rom.find? (fun r => !r.opcode.isEmpty && r.opcode.isPrefixOf bs && r.mnemonic.admitted p)

/-- The name the byte decoder gives the target of a displacement byte, which holds no label
(DESIGN CHOICE, log 9). -/
def shortTargetName (dd : Byte) : Label := 'L' :: hexByte dd

/-- The name the byte decoder gives the line at an absolute target address (DESIGN CHOICE, log 9). -/
def longTargetName (a : Word) : Label := 'L' :: (hexByte (hiByte a) ++ hexByte (loByte a))

/-- The operand of a row, read from the bytes after its opcode, and the bytes left over (R159). A 16-bit
immediate is read as two bytes (log 11). -/
def decodeOperand (m : Mnemonic) (md : Mode) (bs : List Byte) : Except DecodeError (Operand × List Byte) :=
  match md, bs with
  | .inherent, bs => .ok (.inherent, bs)
  | .immediate, b :: bs =>
    if m.wideImmediate then
      match bs with
      | ll :: bs => .ok (.imm16 (.word (joinBytes b ll)), bs)
      | [] => .error .truncated
    else .ok (.imm8 b, bs)
  | .direct, nn :: bs => .ok (.mem (.direct nn), bs)
  | .indexed, pb :: oo :: bs => .ok (.mem (.indexed (IdxReg.ofPostByte pb) oo), bs)
  | .extended, hh :: ll :: bs => .ok (.mem (.extended (joinBytes hh ll)), bs)
  | .relative, b :: bs =>
    if m.longTarget then
      match bs with
      | ll :: bs => .ok (.label (longTargetName (joinBytes b ll)), bs)
      | [] => .error .truncated
    else .ok (.label (shortTargetName b), bs)
  | .registerPair, pb :: bs =>
    match PairReg.ofCode (pb.extractLsb' 4 4), PairReg.ofCode (pb.extractLsb' 0 4) with
    | some r1, some r2 => .ok (.pair r1 r2, bs)
    | none, _ => .error (.noRegister (pb.extractLsb' 4 4))
    | _, none => .error (.noRegister (pb.extractLsb' 0 4))
  | _, _ => .error .truncated

/-- The instruction at the head of a byte string, and the bytes after it; total, rejecting by name. -/
def decode (p : Params) (bs : List Byte) : Except DecodeError (Instr × List Byte) :=
  match findRow p bs with
  | none => .error .noRow
  | some row =>
    match decodeOperand row.mnemonic row.mode (bs.drop row.opcode.length) with
    | .error e => .error e
    | .ok (o, rest) =>
      match Instr.ofParts row.mnemonic o with
      | some i => .ok (i, rest)
      | none => .error .noRow

/-! ## Encoding -/

/-- The displacement byte of a short Relative instruction at address `at_` to a line at `t` (R167). -/
def displacement (at_ t : Nat) : Byte :=
  BitVec.ofInt 8 ((t : Int) - ((at_ : Int) + 2))

/-- The bytes after the opcode (R159), for an instruction at address `at_`, where `target` gives the address
of a label's line. -/
def operandBytes (target : Label → Nat) (at_ : Nat) (m : Mnemonic) : Operand → List Byte
  | .inherent => []
  | .imm8 ii => [ii]
  | .imm16 (.byte ii) => [ii]
  | .imm16 (.word v) => [hiByte v, loByte v]
  | .mem (.direct nn) => [nn]
  | .mem (.indexed r off) => [r.postByte, off]
  | .mem (.extended a) => [hiByte a, loByte a]
  | .label l =>
    if m.longTarget then [hiByte (BitVec.ofNat 16 (target l)), loByte (BitVec.ofNat 16 (target l))]
    else [displacement at_ (target l)]
  | .pair r1 r2 => [r1.code ++ r2.code]

/-- The bytes of an instruction at address `at_`, lowest address first (R157). -/
def encode (target : Label → Nat) (at_ : Nat) (i : Instr) : List Byte :=
  i.opcode ++ operandBytes target at_ i.mnemonic i.operand

/-! ## The host's words -/

/-- The length in bytes of the longest instruction (R157). -/
def maxInstrBytes : Nat := 4

/-- The bytes of an instruction whose bits are `w`, the first byte in bits 7..0, the bits from `nbits` on zero. -/
def tableBytes (nbits w : Nat) : List Byte :=
  (List.range maxInstrBytes).map (fun k => BitVec.ofNat 8 ((w % 2 ^ nbits) / 256 ^ k))

/-- The instruction the decoder reads from a word of the opcode table. The one row of no bits is END, whose
encoding is the empty string (R155; log 12). -/
def decodeTableWord (nbits w : Nat) : Option Instr :=
  if nbits = 0 then some .endProgram
  else
    match decode Config.defaults (tableBytes nbits w) with
    | .ok (i, _) => some i
    | .error _ => none

end Sys2Proof
end

