-- ==== Sys2Proof/Machine/State.lean ====
section
/-!
DEFINITION. The state of the core (10_state.md R30), the reasons a step can stop, and the state after reset (R58).
-/
namespace Sys2Proof.Machine

/-- Why execution ended (60_exceptions.md R506, R509). -/
inductive HaltReason where
  | programEnd
  | swi
  | returnEmpty
  | exhausted
  | fault (kind : ErrorKind)
deriving DecidableEq, Repr

/-- The status machine (R52). -/
inductive Status where
  | notAssembled
  | ready
  | running
  | halted (reason : HaltReason)
deriving DecidableEq, Repr

/-- The data store: the bytes that are not 0x00, at strictly rising addresses. An unlisted address reads its
reset value 0x00 (20_memory.md R83). -/
abbrev Memory := List Host.Cell

/-- The program store: the bytes assembly wrote, at strictly rising addresses. An unlisted address is empty
(R81). -/
abbrev ProgStore := List Host.Cell

/-- The label table: a name and the line that declares it (R55). -/
abbrev LabelTable := List (Label × Nat)

/-- The state of the core, in the order of R30, then three fields of the model's own. -/
structure State where
  a : Byte
  b : Byte
  dp : Byte
  x : Word
  y : Word
  u : Word
  s : Word
  pc : Word
  n : Bool
  z : Bool
  v : Bool
  c : Bool
  h : Bool
  line : Nat
  /-- Return addresses, the top at the end (R51). -/
  callStack : List Word
  status : Status
  /-- The error last surfaced and its 1-based line number, if it has one (R53). -/
  lastError : Option (ErrorKind × Option Nat)
  labels : LabelTable
  stream : List Line
  progStore : ProgStore
  dataStore : Memory
  /-- The model's own: the program text the host holds (R57; log 4). -/
  text : Text
  /-- The model's own: the parameters of 00_scope.md R8 (log 1). No step changes them. -/
  params : Params
  /-- The model's own: how many free values have been drawn (log 3). -/
  draws : Nat
deriving DecidableEq, Repr

/-- The state after power-on and after every reset (R58, R600, R602). -/
def State.reset : State where
  a := 0x00
  b := 0x00
  dp := 0x00
  x := 0x0000
  y := 0x0000
  u := 0x0000
  s := 0x0000
  pc := 0xFE00
  n := false
  z := true
  v := false
  c := false
  h := false
  line := 0
  callStack := []
  status := .notAssembled
  lastError := none
  labels := []
  stream := []
  progStore := []
  dataStore := []
  text := []
  params := Config.defaults
  draws := 0

/-- Cells at strictly rising addresses of the 16-bit address space. -/
def cellsRising : List Host.Cell → Bool
  | [] => true
  | [(k, _)] => decide (k < 0x10000)
  | (k, _) :: (k', b') :: m => decide (k < k') && cellsRising ((k', b') :: m)

/-- The canonical form of a data store: rising addresses, and no entry that holds the reset byte 0x00. -/
def Memory.wf (m : Memory) : Bool :=
  cellsRising m && m.all (fun e => e.2 != 0)

/-- The canonical form of a program store: rising addresses. Any byte may be listed, since an unlisted address
is empty and reads as no byte. -/
def ProgStore.wf (m : ProgStore) : Bool :=
  cellsRising m

/-- Why a step stops without a next state. Every error and every halt the spec describes is a next state
(R507, R510); these two are for states that no assembled program reaches, to which the spec gives no behaviour. -/
inductive Fault where
  /-- Raised by a transfer to a label that is not in the label table. Validation excludes it (check V6 of
  30_encoding.md R130; 46_control_transfer.md R380). Safe: no state reached from reset raises it. -/
  | unboundLabel (l : Label)
  /-- Raised by the step on a line that validation would have refused with this kind, though its mnemonic has a
  row (40_execution_cycle.md R216). Safe: no state reached from reset raises it. -/
  | malformedLine (kind : ErrorKind)
deriving DecidableEq, Repr

/-- Why an instruction has no meaning. -/
inductive Refusal where
  /-- Raised by an arm of `exec` whose instruction is not modelled yet; no arm is. Safe. -/
  | notModelled (mnemonic : String)
deriving DecidableEq, Repr

/-- What a step or an instruction answers. -/
abbrev Result := Host.Outcome State Fault Refusal

end Sys2Proof.Machine
end

