-- ==== Sys2Proof/Machine/Ops.lean ====
section
/-!
DEFINITION. The named operations over the state: the two stores, the registers, the program position, the call stack,
halting, and raising an execution error (00_scope.md R12).
-/
namespace Sys2Proof.Machine

/-! ## Cells -/

/-- The byte listed at an address. -/
def cellAt (k : Nat) : List Host.Cell → Option Byte
  | [] => none
  | (k', b) :: m => if k = k' then some b else cellAt k m

/-- List a byte at an address, in place of the one listed there. -/
def insertCell (k : Nat) (b : Byte) : List Host.Cell → List Host.Cell
  | [] => [(k, b)]
  | (k', b') :: m =>
    if k < k' then (k, b) :: (k', b') :: m
    else if k = k' then (k, b) :: m
    else (k', b') :: insertCell k b m

/-- Take the byte listed at an address away. -/
def eraseCell (k : Nat) : List Host.Cell → List Host.Cell
  | [] => []
  | (k', b') :: m => if k = k' then m else (k', b') :: eraseCell k m

/-! ## The data store -/

/-- `MemRead(a, 1)` (20_memory.md R88). -/
def Memory.read (m : Memory) (a : Word) : Byte :=
  (cellAt a.toNat m).getD 0

/-- `MemWrite(a, 1, b)` (R88), keeping the canonical form. -/
def Memory.write (m : Memory) (a : Word) (b : Byte) : Memory :=
  if b = 0 then eraseCell a.toNat m else insertCell a.toNat b m

/-- `MemRead(a, 2)`: big-endian, the second byte at `trunc_16(a + 1)` (R88). -/
def Memory.read16 (m : Memory) (a : Word) : Word :=
  joinBytes (m.read a) (m.read (a + 1))

/-- `MemWrite(a, 2, v)`: the high byte, then the low byte, at consecutive addresses (R87). -/
def Memory.write16 (m : Memory) (a : Word) (v : Word) : Memory :=
  (m.write a (hiByte v)).write (a + 1) (loByte v)

/-! ## The program store -/

/-- The byte at a program-store address, if it is not empty (R81). -/
def ProgStore.byte? (m : ProgStore) (a : Word) : Option Byte :=
  cellAt a.toNat m

/-- `ProgRead(a, 1)`: an empty address reads as 0x00 (R81). -/
def ProgStore.read (m : ProgStore) (a : Word) : Byte :=
  (m.byte? a).getD 0

/-- `ProgRead(a, 2)`, by the same rule as the data store (R88). No instruction uses it. -/
def ProgStore.read16 (m : ProgStore) (a : Word) : Word :=
  joinBytes (m.read a) (m.read (a + 1))

/-- The bytes at `a` and, if the first is there, at the next address: no opcode string is longer (30_encoding.md
R150). -/
def ProgStore.opcodeWindow (m : ProgStore) (a : Word) : List Byte :=
  match m.byte? a, m.byte? (a + 1) with
  | none, _ => []
  | some b, none => [b]
  | some b, some b' => [b, b']

/-- How many operand bytes a row has; a 16-bit immediate counts as two (R159, R162; log 11). -/
def rowOperandSize (row : RomRow) : Nat :=
  match row.mode with
  | .inherent => 0
  | .immediate => if row.mnemonic.wideImmediate then 2 else 1
  | .direct => 1
  | .indexed => 2
  | .extended => 2
  | .relative => if row.mnemonic.longTarget then 2 else 1
  | .registerPair => 1

/-- `decode(address)`: the mnemonic, the mode and the length of the row whose opcode string stands at `a`
(R180). -/
def ProgStore.decodeAt (p : Params) (m : ProgStore) (a : Word) : Option (Mnemonic × Mode × Nat) :=
  (findRow p (m.opcodeWindow a)).map (fun row => (row.mnemonic, row.mode, row.opcode.length + rowOperandSize row))

/-! ## Registers -/

/-- `x[r]` of an accumulator (R12). -/
def State.acc (st : State) : Acc → Byte
  | .a => st.a
  | .b => st.b

/-- `x[r] <- v` of an accumulator. -/
def State.setAcc (st : State) (r : Acc) (v : Byte) : State :=
  match r with
  | .a => { st with a := v }
  | .b => { st with b := v }

/-- `x[r]` of a 16-bit register (R12). -/
def State.idx (st : State) : IdxReg → Word
  | .x => st.x
  | .y => st.y
  | .u => st.u
  | .s => st.s

/-- `x[r] <- v` of a 16-bit register. -/
def State.setIdx (st : State) (r : IdxReg) (v : Word) : State :=
  match r with
  | .x => { st with x := v }
  | .y => { st with y := v }
  | .u => { st with u := v }
  | .s => { st with s := v }

/-! ## Program position -/

/-- The size of a line under the parameters: 0 for a blank line (30_encoding.md R160). -/
def lineSize (p : Params) : Line → Nat
  | .blank => 0
  | .instr mn op =>
    match decodeLine p mn op with
    | .ok i => i.size
    | .error _ => 0

/-- `addr(i) = BASE + size(line 0) + ... + size(line i-1)` (R163). -/
def lineAddr (p : Params) (stream : List Line) (i : Nat) : Nat :=
  Config.base + ((stream.take i).map (lineSize p)).sum

/-- `addr` of the current line stream. -/
def State.addr (st : State) (i : Nat) : Nat :=
  lineAddr st.params st.stream i

/-- `next_pc = trunc_16(pc + size)` (00_scope.md R13). -/
def State.nextPc (st : State) (i : Instr) : Word :=
  st.pc + BitVec.ofNat 16 i.size

/-- `status <- Running`, at the start of a step that reads a line (40_execution_cycle.md R214, R202). -/
def State.begin (st : State) : State :=
  { st with status := .running }

/-- A blank line: only the line index advances (R215). -/
def State.skipBlank (st : State) : State :=
  { st with line := st.line + 1 }

/-- Outcome `Continue` of instruction `i`: `line <- next_line; pc <- next_pc` (R214). -/
def State.advance (st : State) (i : Instr) : State :=
  { st with line := st.line + 1, pc := st.nextPc i }

/-- Outcome `Transfer(t)`: `line <- t; pc <- addr(t)` (R223). -/
def State.goto (st : State) (t : Nat) : State :=
  { st with line := t, pc := BitVec.ofNat 16 (st.addr t) }

/-- Outcome `Halt(reason)`: only the status changes (60_exceptions.md R507). -/
def State.halt (st : State) (r : HaltReason) : State :=
  { st with status := .halted r }

/-- Outcome `Raise(kind)`, the one way an execution error is taken: status and `lastError` change and nothing
else does; no handler runs (R510, R514; 40_execution_cycle.md R224). There is no return from it (R515). -/
def State.raise (st : State) (kind : ErrorKind) : State :=
  { st with status := .halted (.fault kind), lastError := some (kind, none) }

/-- An instruction that ends with outcome `Continue`. -/
def continueAfter (i : Instr) (st : State) : Result :=
  .next (st.advance i)

/-- A taken transfer to a label, resolved through the label table (46_control_transfer.md R380). -/
def transferTo (l : Label) (st : State) : Result :=
  match st.labels.lookup l with
  | some t => .next (st.goto t)
  | none => .fault (.unboundLabel l)

/-! ## Call stack -/

/-- `push(a)`: the top is at the end (R392). -/
def State.push (st : State) (a : Word) : State :=
  { st with callStack := st.callStack ++ [a] }

/-- `pop()`, the stack without its top. -/
def State.pop (st : State) : State :=
  { st with callStack := st.callStack.dropLast }

/-- Whether the call stack holds `CALL_STACK_DEPTH` entries (R393). -/
def State.stackFull (st : State) : Bool :=
  st.params.callStackDepth == some st.callStack.length

/-- The return scan: the least line index whose address is `a` (R395, R396). -/
def State.lineAt? (st : State) (a : Word) : Option Nat :=
  (List.range st.stream.length).find? (fun j => st.addr j == a.toNat)

end Sys2Proof.Machine
end

