-- ==== Sys2Proof/Machine/Flags.lean ====
section
/-!
DEFINITION. The flag computations: `add8` and `sub8` (42_add_sub_compare.md R276, R277), increments, shifts, rotates,
bitwise and unary results (files 43 and 44), and the flags of a load (41_load_store.md R246).
-/
namespace Sys2Proof.Machine

/-- An 8-bit result and the flags N, Z, V and C computed with it. -/
structure AluOut where
  r : Byte
  n : Bool
  z : Bool
  v : Bool
  c : Bool
deriving DecidableEq, Repr

/-- `add8(a, m)` (R276). -/
def add8 (a m : Byte) : AluOut :=
  let t := a.toNat + m.toNat
  let r := BitVec.ofNat 8 t
  { r := r
    n := r.getLsbD 7
    z := r == 0
    v := ((a ^^^ r) &&& (m ^^^ r) &&& 0x80#8) != 0
    c := decide (0xFF < t) }

/-- `sub8(a, m)` (R277); C is the borrow. -/
def sub8 (a m : Byte) : AluOut :=
  let t : Int := (a.toNat : Int) - (m.toNat : Int)
  let r := BitVec.ofInt 8 t
  { r := r
    n := r.getLsbD 7
    z := r == 0
    v := ((a ^^^ m) &&& (a ^^^ r) &&& 0x80#8) != 0
    c := decide (t < 0) }

/-- Z and N of an 8-bit result; the other flags stay. -/
def State.setZN (st : State) (r : Byte) : State :=
  { st with z := r == 0, n := r.getLsbD 7 }

/-- `F.N <- n; F.Z <- z; F.V <- v; F.C <- c` of an ALU result. -/
def State.setNZVC (st : State) (o : AluOut) : State :=
  { st with n := o.n, z := o.z, v := o.v, c := o.c }

/-- The bit N copies from a 16-bit load (`LOAD16_N_BIT`, R246). -/
def signBit16 (k : SignBit) (w : Word) : Bool :=
  match k with
  | .bit7 => w.getLsbD 7
  | .bit15 => w.getLsbD 15

/-- `flags16(v)`: Z tests all 16 bits, N is bit `LOAD16_N_BIT` (R246). -/
def State.setZN16 (st : State) (w : Word) : State :=
  { st with z := w == 0, n := signBit16 st.params.load16NBit w }

/-- H after ADDA or ADDB: unchanged, or a free draw under `H_ON_ADD = Draw` (10_state.md R48; log 3). -/
def State.setHOnAdd (st : State) : State :=
  match st.params.hOnAdd with
  | .unchanged => st
  | .draw => { st with h := Config.drawnH st.draws, draws := st.draws + 1 }

/-- A result with the Z and N it gives, and the V and C stated with it. -/
def outOf (r : Byte) (v c : Bool) : AluOut :=
  { r := r, n := r.getLsbD 7, z := r == 0, v := v, c := c }

/-- INC: V is set exactly at 0x7F, C stays (43_inc_dec_shift.md R300). -/
def incOut (a : Byte) (c : Bool) : AluOut := outOf (a + 1) (a == 0x7F) c

/-- DEC: V is set exactly at 0x80, C stays (R302). -/
def decOut (a : Byte) (c : Bool) : AluOut := outOf (a - 1) (a == 0x80) c

/-- LSL: C is the bit shifted out, V stays (R304). -/
def lslOut (a : Byte) (v : Bool) : AluOut := outOf (a <<< 1) v (a.getLsbD 7)

/-- LSR: C is the bit shifted out, V stays (R306). -/
def lsrOut (a : Byte) (v : Bool) : AluOut := outOf (a >>> 1) v (a.getLsbD 0)

/-- A carry as the byte 0 or 1. -/
def carryByte (c : Bool) : Byte := (BitVec.ofBool c).zeroExtend 8

/-- ROL: the old C enters at bit 0 (R308). -/
def rolOut (a : Byte) (v c : Bool) : AluOut := outOf ((a <<< 1) ||| carryByte c) v (a.getLsbD 7)

/-- ROR: the old C enters at bit 7 (R310). -/
def rorOut (a : Byte) (v c : Bool) : AluOut := outOf ((a >>> 1) ||| (carryByte c <<< 7)) v (a.getLsbD 0)

/-- CLR: C is cleared, V stays (44_bitwise_unary.md R340). -/
def clrOut (v : Bool) : AluOut := outOf 0x00 v false

/-- COM: C is `COM_CARRY`, V stays (R342). -/
def comOut (p : Params) (a : Byte) (v : Bool) : AluOut := outOf (0xFF - a) v p.comCarry

/-- NEG: C is the borrow of `0 - a`, V stays (R344). -/
def negOut (a : Byte) (v : Bool) : AluOut := outOf (0 - a) v (a != 0)

/-- The inherent operations on an accumulator holding `a`, with V and C as they were before. -/
def unaryOut (p : Params) (op : UnaryOp) (a : Byte) (v c : Bool) : AluOut :=
  match op with
  | .inc => incOut a c
  | .dec => decOut a c
  | .lsl => lslOut a v
  | .lsr => lsrOut a v
  | .rol => rolOut a v c
  | .ror => rorOut a v c
  | .clr => clrOut v
  | .com => comOut p a v
  | .neg => negOut a v

/-- The result of a bitwise operation (R330 to R335). -/
def logicOut (op : LogicOp) (a m : Byte) : Byte :=
  match op with
  | .and => a &&& m
  | .or => a ||| m
  | .eor => a ^^^ m

/-- Whether a branch is taken (46_control_transfer.md R382 to R390). -/
def State.holds (st : State) : Cond → Bool
  | .always => true
  | .eq => st.z
  | .ne => !st.z
  | .mi => st.n
  | .pl => !st.n
  | .cc => !st.c
  | .cs => st.c
  | .vc => !st.v
  | .vs => st.v

end Sys2Proof.Machine
end

