-- ==== Sys2Proof/Machine/Operands.lean ====
section
/-!
DEFINITION. Operand forms (40_execution_cycle.md R217 to R221) and the registers of a TFR or EXG (45_register_move.md).
-/
namespace Sys2Proof.Machine

/-- The effective address of a memory operand: Direct (R218), Extended (R219), Indexed (R220). -/
def State.ea (st : State) : MemOperand → Word
  | .direct nn => joinBytes st.dp nn
  | .indexed r off => st.idx r + off.signExtend 16
  | .extended hhhh => hhhh

/-- `operand8(mode, op)`: the immediate, or the data-store byte at the effective address (R221). -/
def State.operand8 (st : State) : Src8 → Byte
  | .imm ii => ii
  | .mem m => st.dataStore.read (st.ea m)

/-- The value of a 16-bit immediate; one of a single byte is zero-extended (30_encoding.md R161). -/
def imm16Value : Imm16 → Word
  | .byte ii => ii.zeroExtend 16
  | .word v => v

/-- `operand16(mode, op)` (R221). -/
def State.operand16 (st : State) : Src16 → Word
  | .imm v => imm16Value v
  | .mem m => st.dataStore.read16 (st.ea m)

/-- `operandC(mode, op)`: what CMPA and CMPB read, from the store `CMP_OPERAND_STORE` names
(42_add_sub_compare.md R274). -/
def State.operandC (st : State) : Src8 → Byte
  | .imm ii => ii
  | .mem m =>
    match st.params.cmpOperandStore with
    | .data => st.dataStore.read (st.ea m)
    | .program => st.progStore.read (st.ea m)

/-! ## Registers of a move -/

/-- Whether a register is 8 bits wide (R363). D is no register and counts as neither. -/
def pairIs8 : PairReg → Bool
  | .a | .b => true
  | .d | .x | .y | .u | .s => false

/-- `x[r]` of a register of a move, zero-extended to 16 bits. D has no storage (R362). -/
def State.pairReg (st : State) : PairReg → Word
  | .a => st.a.zeroExtend 16
  | .b => st.b.zeroExtend 16
  | .x => st.x
  | .y => st.y
  | .u => st.u
  | .s => st.s
  | .d => 0

/-- `x[r] <- move(v, r)` under `ZeroExtendTruncate`: an 8-bit register takes the low byte, a 16-bit register
the zero-extended value (R363). -/
def State.setPairReg (st : State) (r : PairReg) (v : Word) : State :=
  match r with
  | .a => { st with a := loByte v }
  | .b => { st with b := loByte v }
  | .x => { st with x := v }
  | .y => { st with y := v }
  | .u => { st with u := v }
  | .s => { st with s := v }
  | .d => st

/-- Whether a move between two registers raises `UnknownRegister`: one is D, or the widths differ under
`MIXED_WIDTH_MOVE = Fault` (R360 to R363). -/
def State.moveRaises (st : State) (r1 r2 : PairReg) : Bool :=
  r1 == .d || r2 == .d || (pairIs8 r1 != pairIs8 r2 && st.params.mixedWidthMove == .fault)

end Sys2Proof.Machine
end

