-- ==== Sys2Proof/Machine/AddSub.lean ====
section
/-!
DEFINITION. Add, subtract and compare (42_add_sub_compare.md).
-/
namespace Sys2Proof.Machine

/-- ADD: the register, N, Z, V, C, and H by `H_ON_ADD` (R270). -/
def State.add (st : State) (r : Acc) (src : Src8) : State :=
  ((st.setAcc r (add8 (st.acc r) (st.operand8 src)).r).setNZVC (add8 (st.acc r) (st.operand8 src))).setHOnAdd

/-- SUB: the register and N, Z, V, C (R272). -/
def State.sub (st : State) (r : Acc) (src : Src8) : State :=
  (st.setAcc r (sub8 (st.acc r) (st.operand8 src)).r).setNZVC (sub8 (st.acc r) (st.operand8 src))

/-- CMP: the flags of SUB; no register is written (R274). -/
def State.cmp (st : State) (r : Acc) (src : Src8) : State :=
  st.setNZVC (sub8 (st.acc r) (st.operandC src))

/-- ADDA, Immediate (R270). -/
def execAddaImmediate (ii : Byte) (st : State) : Result :=
  continueAfter (.addaImmediate ii) (st.add .a (.imm ii))

/-- ADDA, Direct (R270). -/
def execAddaDirect (nn : Byte) (st : State) : Result :=
  continueAfter (.addaDirect nn) (st.add .a (.mem (.direct nn)))

/-- ADDA, Indexed (R270). -/
def execAddaIndexed (r : IdxReg) (off : Byte) (st : State) : Result :=
  continueAfter (.addaIndexed r off) (st.add .a (.mem (.indexed r off)))

/-- ADDA, Extended (R270). -/
def execAddaExtended (hhhh : Word) (st : State) : Result :=
  continueAfter (.addaExtended hhhh) (st.add .a (.mem (.extended hhhh)))

/-- ADDB, Immediate (R271). -/
def execAddbImmediate (ii : Byte) (st : State) : Result :=
  continueAfter (.addbImmediate ii) (st.add .b (.imm ii))

/-- ADDB, Direct (R271). -/
def execAddbDirect (nn : Byte) (st : State) : Result :=
  continueAfter (.addbDirect nn) (st.add .b (.mem (.direct nn)))

/-- ADDB, Indexed (R271). -/
def execAddbIndexed (r : IdxReg) (off : Byte) (st : State) : Result :=
  continueAfter (.addbIndexed r off) (st.add .b (.mem (.indexed r off)))

/-- ADDB, Extended (R271). -/
def execAddbExtended (hhhh : Word) (st : State) : Result :=
  continueAfter (.addbExtended hhhh) (st.add .b (.mem (.extended hhhh)))

/-- SUBA, Immediate (R272). -/
def execSubaImmediate (ii : Byte) (st : State) : Result :=
  continueAfter (.subaImmediate ii) (st.sub .a (.imm ii))

/-- SUBA, Direct (R272). -/
def execSubaDirect (nn : Byte) (st : State) : Result :=
  continueAfter (.subaDirect nn) (st.sub .a (.mem (.direct nn)))

/-- SUBA, Indexed (R272). -/
def execSubaIndexed (r : IdxReg) (off : Byte) (st : State) : Result :=
  continueAfter (.subaIndexed r off) (st.sub .a (.mem (.indexed r off)))

/-- SUBA, Extended (R272). -/
def execSubaExtended (hhhh : Word) (st : State) : Result :=
  continueAfter (.subaExtended hhhh) (st.sub .a (.mem (.extended hhhh)))

/-- SUBB, Immediate (R273). -/
def execSubbImmediate (ii : Byte) (st : State) : Result :=
  continueAfter (.subbImmediate ii) (st.sub .b (.imm ii))

/-- SUBB, Direct (R273). -/
def execSubbDirect (nn : Byte) (st : State) : Result :=
  continueAfter (.subbDirect nn) (st.sub .b (.mem (.direct nn)))

/-- SUBB, Indexed (R273). -/
def execSubbIndexed (r : IdxReg) (off : Byte) (st : State) : Result :=
  continueAfter (.subbIndexed r off) (st.sub .b (.mem (.indexed r off)))

/-- SUBB, Extended (R273). -/
def execSubbExtended (hhhh : Word) (st : State) : Result :=
  continueAfter (.subbExtended hhhh) (st.sub .b (.mem (.extended hhhh)))

/-- CMPA, Immediate (R274). -/
def execCmpaImmediate (ii : Byte) (st : State) : Result :=
  continueAfter (.cmpaImmediate ii) (st.cmp .a (.imm ii))

/-- CMPA, Direct (R274). -/
def execCmpaDirect (nn : Byte) (st : State) : Result :=
  continueAfter (.cmpaDirect nn) (st.cmp .a (.mem (.direct nn)))

/-- CMPA, Indexed (R274). -/
def execCmpaIndexed (r : IdxReg) (off : Byte) (st : State) : Result :=
  continueAfter (.cmpaIndexed r off) (st.cmp .a (.mem (.indexed r off)))

/-- CMPA, Extended (R274). -/
def execCmpaExtended (hhhh : Word) (st : State) : Result :=
  continueAfter (.cmpaExtended hhhh) (st.cmp .a (.mem (.extended hhhh)))

/-- CMPB, Immediate (R275). -/
def execCmpbImmediate (ii : Byte) (st : State) : Result :=
  continueAfter (.cmpbImmediate ii) (st.cmp .b (.imm ii))

/-- CMPB, Direct (R275). -/
def execCmpbDirect (nn : Byte) (st : State) : Result :=
  continueAfter (.cmpbDirect nn) (st.cmp .b (.mem (.direct nn)))

/-- CMPB, Indexed (R275). -/
def execCmpbIndexed (r : IdxReg) (off : Byte) (st : State) : Result :=
  continueAfter (.cmpbIndexed r off) (st.cmp .b (.mem (.indexed r off)))

/-- CMPB, Extended (R275). -/
def execCmpbExtended (hhhh : Word) (st : State) : Result :=
  continueAfter (.cmpbExtended hhhh) (st.cmp .b (.mem (.extended hhhh)))

end Sys2Proof.Machine
end

