-- ==== Sys2Proof/Machine/Unary.lean ====
section
/-!
DEFINITION. The shape the inherent accumulator operations share (43_inc_dec_shift.md, 44_bitwise_unary.md section 2).
-/
namespace Sys2Proof.Machine

/-- An inherent operation on A or B: the register and the flags of `unaryOut`; H is never written. -/
def State.unary (st : State) (op : UnaryOp) (r : Acc) : State :=
  (st.setAcc r (unaryOut st.params op (st.acc r) st.v st.c).r).setNZVC
    (unaryOut st.params op (st.acc r) st.v st.c)

end Sys2Proof.Machine
end

