-- ==== Sys2Proof/Machine/Bitwise.lean ====
section
/-!
DEFINITION. Bitwise and unary operations (44_bitwise_unary.md).
-/
namespace Sys2Proof.Machine

/-- AND, OR and EOR: the register, Z and N from the result, V cleared, C unchanged (R330). -/
def State.logic (st : State) (op : LogicOp) (r : Acc) (src : Src8) : State :=
  { (st.setAcc r (logicOut op (st.acc r) (st.operand8 src))).setZN (logicOut op (st.acc r) (st.operand8 src)) with
    v := false }

/-- ANDA, Immediate (R330). -/
def execAndaImmediate (ii : Byte) (st : State) : Result :=
  continueAfter (.andaImmediate ii) (st.logic .and .a (.imm ii))

/-- ANDA, Direct (R330). -/
def execAndaDirect (nn : Byte) (st : State) : Result :=
  continueAfter (.andaDirect nn) (st.logic .and .a (.mem (.direct nn)))

/-- ANDA, Indexed (R330). -/
def execAndaIndexed (r : IdxReg) (off : Byte) (st : State) : Result :=
  continueAfter (.andaIndexed r off) (st.logic .and .a (.mem (.indexed r off)))

/-- ANDA, Extended (R330). -/
def execAndaExtended (hhhh : Word) (st : State) : Result :=
  continueAfter (.andaExtended hhhh) (st.logic .and .a (.mem (.extended hhhh)))

/-- ANDB, Immediate (R331). -/
def execAndbImmediate (ii : Byte) (st : State) : Result :=
  continueAfter (.andbImmediate ii) (st.logic .and .b (.imm ii))

/-- ANDB, Direct (R331). -/
def execAndbDirect (nn : Byte) (st : State) : Result :=
  continueAfter (.andbDirect nn) (st.logic .and .b (.mem (.direct nn)))

/-- ANDB, Indexed (R331). -/
def execAndbIndexed (r : IdxReg) (off : Byte) (st : State) : Result :=
  continueAfter (.andbIndexed r off) (st.logic .and .b (.mem (.indexed r off)))

/-- ANDB, Extended (R331). -/
def execAndbExtended (hhhh : Word) (st : State) : Result :=
  continueAfter (.andbExtended hhhh) (st.logic .and .b (.mem (.extended hhhh)))

/-- ORA, Immediate (R332). -/
def execOraImmediate (ii : Byte) (st : State) : Result :=
  continueAfter (.oraImmediate ii) (st.logic .or .a (.imm ii))

/-- ORA, Direct (R332). -/
def execOraDirect (nn : Byte) (st : State) : Result :=
  continueAfter (.oraDirect nn) (st.logic .or .a (.mem (.direct nn)))

/-- ORA, Indexed (R332). -/
def execOraIndexed (r : IdxReg) (off : Byte) (st : State) : Result :=
  continueAfter (.oraIndexed r off) (st.logic .or .a (.mem (.indexed r off)))

/-- ORA, Extended (R332). -/
def execOraExtended (hhhh : Word) (st : State) : Result :=
  continueAfter (.oraExtended hhhh) (st.logic .or .a (.mem (.extended hhhh)))

/-- ORB, Immediate (R333). -/
def execOrbImmediate (ii : Byte) (st : State) : Result :=
  continueAfter (.orbImmediate ii) (st.logic .or .b (.imm ii))

/-- ORB, Direct (R333). -/
def execOrbDirect (nn : Byte) (st : State) : Result :=
  continueAfter (.orbDirect nn) (st.logic .or .b (.mem (.direct nn)))

/-- ORB, Indexed (R333). -/
def execOrbIndexed (r : IdxReg) (off : Byte) (st : State) : Result :=
  continueAfter (.orbIndexed r off) (st.logic .or .b (.mem (.indexed r off)))

/-- ORB, Extended (R333). -/
def execOrbExtended (hhhh : Word) (st : State) : Result :=
  continueAfter (.orbExtended hhhh) (st.logic .or .b (.mem (.extended hhhh)))

/-- EORA, Immediate (R334). -/
def execEoraImmediate (ii : Byte) (st : State) : Result :=
  continueAfter (.eoraImmediate ii) (st.logic .eor .a (.imm ii))

/-- EORA, Direct (R334). -/
def execEoraDirect (nn : Byte) (st : State) : Result :=
  continueAfter (.eoraDirect nn) (st.logic .eor .a (.mem (.direct nn)))

/-- EORA, Indexed (R334). -/
def execEoraIndexed (r : IdxReg) (off : Byte) (st : State) : Result :=
  continueAfter (.eoraIndexed r off) (st.logic .eor .a (.mem (.indexed r off)))

/-- EORA, Extended (R334). -/
def execEoraExtended (hhhh : Word) (st : State) : Result :=
  continueAfter (.eoraExtended hhhh) (st.logic .eor .a (.mem (.extended hhhh)))

/-- EORB, Immediate (R335). -/
def execEorbImmediate (ii : Byte) (st : State) : Result :=
  continueAfter (.eorbImmediate ii) (st.logic .eor .b (.imm ii))

/-- EORB, Direct (R335). -/
def execEorbDirect (nn : Byte) (st : State) : Result :=
  continueAfter (.eorbDirect nn) (st.logic .eor .b (.mem (.direct nn)))

/-- EORB, Indexed (R335). -/
def execEorbIndexed (r : IdxReg) (off : Byte) (st : State) : Result :=
  continueAfter (.eorbIndexed r off) (st.logic .eor .b (.mem (.indexed r off)))

/-- EORB, Extended (R335). -/
def execEorbExtended (hhhh : Word) (st : State) : Result :=
  continueAfter (.eorbExtended hhhh) (st.logic .eor .b (.mem (.extended hhhh)))

/-- CLRA (R340). -/
def execClra (st : State) : Result :=
  continueAfter .clra (st.unary .clr .a)

/-- CLRB (R341). -/
def execClrb (st : State) : Result :=
  continueAfter .clrb (st.unary .clr .b)

/-- COMA (R342). -/
def execComa (st : State) : Result :=
  continueAfter .coma (st.unary .com .a)

/-- COMB (R343). -/
def execComb (st : State) : Result :=
  continueAfter .comb (st.unary .com .b)

/-- NEGA (R344). -/
def execNega (st : State) : Result :=
  continueAfter .nega (st.unary .neg .a)

/-- NEGB (R345). -/
def execNegb (st : State) : Result :=
  continueAfter .negb (st.unary .neg .b)

end Sys2Proof.Machine
end

