-- ==== Sys2Proof/Machine/Control.lean ====
section
/-!
DEFINITION. Control transfer (46_control_transfer.md).
-/
namespace Sys2Proof.Machine

/-- A branch: to the label's line when the condition holds, else on (R382, section 2). -/
def branch (i : Instr) (k : Cond) (l : Label) (st : State) : Result :=
  if st.holds k then transferTo l st else continueAfter i st

/-- A call: push the address of the next line, then transfer; `CallStackOverflow` when the stack is full,
before anything is written (R392 to R394). -/
def call (i : Instr) (l : Label) (st : State) : Result :=
  if st.stackFull then .next (st.raise .callStackOverflow)
  else transferTo l (st.push (st.nextPc i))

/-- RTS: halt on an empty stack; else resume at the least line with the popped address (R395). -/
def returnFromCall (st : State) : Result :=
  match st.callStack.getLast? with
  | none => .next (st.halt .returnEmpty)
  | some a =>
    match st.lineAt? a with
    | none => .next (st.raise .returnAddressNotFound)
    | some j => .next { st.pop with line := j, pc := a }

/-- JMP (R381). -/
def execJmp (l : Label) (st : State) : Result :=
  transferTo l st

/-- BRA (R382). -/
def execBra (l : Label) (st : State) : Result :=
  branch (.bra l) .always l st

/-- BEQ (R383). -/
def execBeq (l : Label) (st : State) : Result :=
  branch (.beq l) .eq l st

/-- BNE (R384). -/
def execBne (l : Label) (st : State) : Result :=
  branch (.bne l) .ne l st

/-- BMI (R385). -/
def execBmi (l : Label) (st : State) : Result :=
  branch (.bmi l) .mi l st

/-- BPL (R386). -/
def execBpl (l : Label) (st : State) : Result :=
  branch (.bpl l) .pl l st

/-- BCC (R387). -/
def execBcc (l : Label) (st : State) : Result :=
  branch (.bcc l) .cc l st

/-- BCS (R388). -/
def execBcs (l : Label) (st : State) : Result :=
  branch (.bcs l) .cs l st

/-- BVC (R389). -/
def execBvc (l : Label) (st : State) : Result :=
  branch (.bvc l) .vc l st

/-- BVS (R390). -/
def execBvs (l : Label) (st : State) : Result :=
  branch (.bvs l) .vs l st

/-- JSR (R393). -/
def execJsr (l : Label) (st : State) : Result :=
  call (.jsr l) l st

/-- BSR (R394). -/
def execBsr (l : Label) (st : State) : Result :=
  call (.bsr l) l st

/-- RTS (R395). -/
def execRts (st : State) : Result :=
  returnFromCall st

end Sys2Proof.Machine
end

