-- ==== Sys2Proof/Machine/IncShift.lean ====
section
/-!
DEFINITION. Increment, decrement, shifts and rotates (43_inc_dec_shift.md).
-/
namespace Sys2Proof.Machine

/-- INCA (R300). -/
def execInca (st : State) : Result :=
  continueAfter .inca (st.unary .inc .a)

/-- INCB (R301). -/
def execIncb (st : State) : Result :=
  continueAfter .incb (st.unary .inc .b)

/-- DECA (R302). -/
def execDeca (st : State) : Result :=
  continueAfter .deca (st.unary .dec .a)

/-- DECB (R303). -/
def execDecb (st : State) : Result :=
  continueAfter .decb (st.unary .dec .b)

/-- LSLA (R304). -/
def execLsla (st : State) : Result :=
  continueAfter .lsla (st.unary .lsl .a)

/-- LSLB (R305). -/
def execLslb (st : State) : Result :=
  continueAfter .lslb (st.unary .lsl .b)

/-- LSRA (R306). -/
def execLsra (st : State) : Result :=
  continueAfter .lsra (st.unary .lsr .a)

/-- LSRB (R307). -/
def execLsrb (st : State) : Result :=
  continueAfter .lsrb (st.unary .lsr .b)

/-- ROLA (R308). -/
def execRola (st : State) : Result :=
  continueAfter .rola (st.unary .rol .a)

/-- ROLB (R309). -/
def execRolb (st : State) : Result :=
  continueAfter .rolb (st.unary .rol .b)

/-- RORA (R310). -/
def execRora (st : State) : Result :=
  continueAfter .rora (st.unary .ror .a)

/-- RORB (R311). -/
def execRorb (st : State) : Result :=
  continueAfter .rorb (st.unary .ror .b)

end Sys2Proof.Machine
end

