-- ==== Sys2Proof/Machine/LoadStore.lean ====
section
/-!
DEFINITION. Loads and stores (41_load_store.md).
-/
namespace Sys2Proof.Machine

/-- A load of A or B: the register, Z and N (R240). -/
def State.load8 (st : State) (r : Acc) (src : Src8) : State :=
  (st.setAcc r (st.operand8 src)).setZN (st.operand8 src)

/-- A load of X, Y, U or S: the register, and Z and N by R246. The address uses the registers as they were
before (R242). -/
def State.load16 (st : State) (r : IdxReg) (src : Src16) : State :=
  (st.setIdx r (st.operand16 src)).setZN16 (st.operand16 src)

/-- A store of A or B: one byte, no flag (R250). -/
def State.store8 (st : State) (r : Acc) (m : MemOperand) : State :=
  { st with dataStore := st.dataStore.write (st.ea m) (st.acc r) }

/-- A store of X, Y, U or S: two bytes, high byte first, no flag (R252). -/
def State.store16 (st : State) (r : IdxReg) (m : MemOperand) : State :=
  { st with dataStore := st.dataStore.write16 (st.ea m) (st.idx r) }

/-- LDA, Immediate (R240). -/
def execLdaImmediate (ii : Byte) (st : State) : Result :=
  continueAfter (.ldaImmediate ii) (st.load8 .a (.imm ii))

/-- LDA, Direct (R240). -/
def execLdaDirect (nn : Byte) (st : State) : Result :=
  continueAfter (.ldaDirect nn) (st.load8 .a (.mem (.direct nn)))

/-- LDA, Indexed (R240). -/
def execLdaIndexed (r : IdxReg) (off : Byte) (st : State) : Result :=
  continueAfter (.ldaIndexed r off) (st.load8 .a (.mem (.indexed r off)))

/-- LDA, Extended (R240). -/
def execLdaExtended (hhhh : Word) (st : State) : Result :=
  continueAfter (.ldaExtended hhhh) (st.load8 .a (.mem (.extended hhhh)))

/-- LDB, Immediate (R241). -/
def execLdbImmediate (ii : Byte) (st : State) : Result :=
  continueAfter (.ldbImmediate ii) (st.load8 .b (.imm ii))

/-- LDB, Direct (R241). -/
def execLdbDirect (nn : Byte) (st : State) : Result :=
  continueAfter (.ldbDirect nn) (st.load8 .b (.mem (.direct nn)))

/-- LDB, Indexed (R241). -/
def execLdbIndexed (r : IdxReg) (off : Byte) (st : State) : Result :=
  continueAfter (.ldbIndexed r off) (st.load8 .b (.mem (.indexed r off)))

/-- LDB, Extended (R241). -/
def execLdbExtended (hhhh : Word) (st : State) : Result :=
  continueAfter (.ldbExtended hhhh) (st.load8 .b (.mem (.extended hhhh)))

/-- LDX, Immediate (R242). -/
def execLdxImmediate (imm : Imm16) (st : State) : Result :=
  continueAfter (.ldxImmediate imm) (st.load16 .x (.imm imm))

/-- LDX, Direct (R242). -/
def execLdxDirect (nn : Byte) (st : State) : Result :=
  continueAfter (.ldxDirect nn) (st.load16 .x (.mem (.direct nn)))

/-- LDX, Indexed (R242). -/
def execLdxIndexed (r : IdxReg) (off : Byte) (st : State) : Result :=
  continueAfter (.ldxIndexed r off) (st.load16 .x (.mem (.indexed r off)))

/-- LDX, Extended (R242). -/
def execLdxExtended (hhhh : Word) (st : State) : Result :=
  continueAfter (.ldxExtended hhhh) (st.load16 .x (.mem (.extended hhhh)))

/-- LDY, Immediate (R243). -/
def execLdyImmediate (imm : Imm16) (st : State) : Result :=
  continueAfter (.ldyImmediate imm) (st.load16 .y (.imm imm))

/-- LDY, Direct (R243). -/
def execLdyDirect (nn : Byte) (st : State) : Result :=
  continueAfter (.ldyDirect nn) (st.load16 .y (.mem (.direct nn)))

/-- LDY, Indexed (R243). -/
def execLdyIndexed (r : IdxReg) (off : Byte) (st : State) : Result :=
  continueAfter (.ldyIndexed r off) (st.load16 .y (.mem (.indexed r off)))

/-- LDY, Extended (R243). -/
def execLdyExtended (hhhh : Word) (st : State) : Result :=
  continueAfter (.ldyExtended hhhh) (st.load16 .y (.mem (.extended hhhh)))

/-- LDU, Immediate (R244). -/
def execLduImmediate (imm : Imm16) (st : State) : Result :=
  continueAfter (.lduImmediate imm) (st.load16 .u (.imm imm))

/-- LDU, Direct (R244). -/
def execLduDirect (nn : Byte) (st : State) : Result :=
  continueAfter (.lduDirect nn) (st.load16 .u (.mem (.direct nn)))

/-- LDU, Indexed (R244). -/
def execLduIndexed (r : IdxReg) (off : Byte) (st : State) : Result :=
  continueAfter (.lduIndexed r off) (st.load16 .u (.mem (.indexed r off)))

/-- LDU, Extended (R244). -/
def execLduExtended (hhhh : Word) (st : State) : Result :=
  continueAfter (.lduExtended hhhh) (st.load16 .u (.mem (.extended hhhh)))

/-- LDS, Immediate (R245). -/
def execLdsImmediate (imm : Imm16) (st : State) : Result :=
  continueAfter (.ldsImmediate imm) (st.load16 .s (.imm imm))

/-- LDS, Direct (R245). -/
def execLdsDirect (nn : Byte) (st : State) : Result :=
  continueAfter (.ldsDirect nn) (st.load16 .s (.mem (.direct nn)))

/-- LDS, Indexed (R245). -/
def execLdsIndexed (r : IdxReg) (off : Byte) (st : State) : Result :=
  continueAfter (.ldsIndexed r off) (st.load16 .s (.mem (.indexed r off)))

/-- LDS, Extended (R245). -/
def execLdsExtended (hhhh : Word) (st : State) : Result :=
  continueAfter (.ldsExtended hhhh) (st.load16 .s (.mem (.extended hhhh)))

/-- STA, Direct (R250). -/
def execStaDirect (nn : Byte) (st : State) : Result :=
  continueAfter (.staDirect nn) (st.store8 .a (.direct nn))

/-- STA, Indexed (R250). -/
def execStaIndexed (r : IdxReg) (off : Byte) (st : State) : Result :=
  continueAfter (.staIndexed r off) (st.store8 .a (.indexed r off))

/-- STA, Extended (R250). -/
def execStaExtended (hhhh : Word) (st : State) : Result :=
  continueAfter (.staExtended hhhh) (st.store8 .a (.extended hhhh))

/-- STB, Direct (R251). -/
def execStbDirect (nn : Byte) (st : State) : Result :=
  continueAfter (.stbDirect nn) (st.store8 .b (.direct nn))

/-- STB, Indexed (R251). -/
def execStbIndexed (r : IdxReg) (off : Byte) (st : State) : Result :=
  continueAfter (.stbIndexed r off) (st.store8 .b (.indexed r off))

/-- STB, Extended (R251). -/
def execStbExtended (hhhh : Word) (st : State) : Result :=
  continueAfter (.stbExtended hhhh) (st.store8 .b (.extended hhhh))

/-- STX, Direct (R252). -/
def execStxDirect (nn : Byte) (st : State) : Result :=
  continueAfter (.stxDirect nn) (st.store16 .x (.direct nn))

/-- STX, Indexed (R252). -/
def execStxIndexed (r : IdxReg) (off : Byte) (st : State) : Result :=
  continueAfter (.stxIndexed r off) (st.store16 .x (.indexed r off))

/-- STX, Extended (R252). -/
def execStxExtended (hhhh : Word) (st : State) : Result :=
  continueAfter (.stxExtended hhhh) (st.store16 .x (.extended hhhh))

/-- STY, Direct (R253). -/
def execStyDirect (nn : Byte) (st : State) : Result :=
  continueAfter (.styDirect nn) (st.store16 .y (.direct nn))

/-- STY, Indexed (R253). -/
def execStyIndexed (r : IdxReg) (off : Byte) (st : State) : Result :=
  continueAfter (.styIndexed r off) (st.store16 .y (.indexed r off))

/-- STY, Extended (R253). -/
def execStyExtended (hhhh : Word) (st : State) : Result :=
  continueAfter (.styExtended hhhh) (st.store16 .y (.extended hhhh))

/-- STU, Direct (R254). -/
def execStuDirect (nn : Byte) (st : State) : Result :=
  continueAfter (.stuDirect nn) (st.store16 .u (.direct nn))

/-- STU, Indexed (R254). -/
def execStuIndexed (r : IdxReg) (off : Byte) (st : State) : Result :=
  continueAfter (.stuIndexed r off) (st.store16 .u (.indexed r off))

/-- STU, Extended (R254). -/
def execStuExtended (hhhh : Word) (st : State) : Result :=
  continueAfter (.stuExtended hhhh) (st.store16 .u (.extended hhhh))

/-- STS, Direct (R255). -/
def execStsDirect (nn : Byte) (st : State) : Result :=
  continueAfter (.stsDirect nn) (st.store16 .s (.direct nn))

/-- STS, Indexed (R255). -/
def execStsIndexed (r : IdxReg) (off : Byte) (st : State) : Result :=
  continueAfter (.stsIndexed r off) (st.store16 .s (.indexed r off))

/-- STS, Extended (R255). -/
def execStsExtended (hhhh : Word) (st : State) : Result :=
  continueAfter (.stsExtended hhhh) (st.store16 .s (.extended hhhh))

end Sys2Proof.Machine
end

