-- ==== Sys2Proof/Machine/RegisterMove.lean ====
section
/-!
DEFINITION. Register moves (45_register_move.md).
-/
namespace Sys2Proof.Machine

/-- TFR: r2 takes r1, or `UnknownRegister` before any write (R360, R362, R363). -/
def transfer (i : Instr) (r1 r2 : PairReg) (st : State) : Result :=
  if st.moveRaises r1 r2 then .next (st.raise .unknownRegister)
  else continueAfter i (st.setPairReg r2 (st.pairReg r1))

/-- EXG: both registers are read before either is written (R361). -/
def exchange (i : Instr) (r1 r2 : PairReg) (st : State) : Result :=
  if st.moveRaises r1 r2 then .next (st.raise .unknownRegister)
  else continueAfter i ((st.setPairReg r2 (st.pairReg r1)).setPairReg r1 (st.pairReg r2))

/-- TFR (R360). -/
def execTfr (r1 : PairReg) (r2 : PairReg) (st : State) : Result :=
  transfer (.tfr r1 r2) r1 r2 st

/-- EXG (R361). -/
def execExg (r1 : PairReg) (r2 : PairReg) (st : State) : Result :=
  exchange (.exg r1 r2) r1 r2 st

end Sys2Proof.Machine
end

