-- ==== Sys2Proof/Machine/System.lean ====
section
/-!
DEFINITION. System instructions (47_system.md). No instruction enters a handler or is privileged (60_exceptions.md R514,
R523).
-/
namespace Sys2Proof.Machine

/-- SWI (R420). -/
def execSwi (st : State) : Result :=
  .next (st.halt .swi)

/-- END (R421). -/
def execEndProgram (st : State) : Result :=
  .next (st.halt .programEnd)

/-- NOP (R422). -/
def execNop (st : State) : Result :=
  continueAfter .nop st

end Sys2Proof.Machine
end

