-- ==== Sys2Proof/Machine/Dispatch.lean ====
section
/-!
DEFINITION. The dispatch of 40_execution_cycle.md R222: one arm for each row of the opcode table.
-/
namespace Sys2Proof.Machine

def exec (i : Instr) (s : State) : Host.Outcome State Fault Refusal :=
  match i with
  | .ldaImmediate ii => Sys2Proof.Machine.execLdaImmediate ii s
  | .ldaDirect nn => Sys2Proof.Machine.execLdaDirect nn s
  | .ldaIndexed r off => Sys2Proof.Machine.execLdaIndexed r off s
  | .ldaExtended hhhh => Sys2Proof.Machine.execLdaExtended hhhh s
  | .ldbImmediate ii => Sys2Proof.Machine.execLdbImmediate ii s
  | .ldbDirect nn => Sys2Proof.Machine.execLdbDirect nn s
  | .ldbIndexed r off => Sys2Proof.Machine.execLdbIndexed r off s
  | .ldbExtended hhhh => Sys2Proof.Machine.execLdbExtended hhhh s
  | .ldxImmediate imm => Sys2Proof.Machine.execLdxImmediate imm s
  | .ldxDirect nn => Sys2Proof.Machine.execLdxDirect nn s
  | .ldxIndexed r off => Sys2Proof.Machine.execLdxIndexed r off s
  | .ldxExtended hhhh => Sys2Proof.Machine.execLdxExtended hhhh s
  | .ldyImmediate imm => Sys2Proof.Machine.execLdyImmediate imm s
  | .ldyDirect nn => Sys2Proof.Machine.execLdyDirect nn s
  | .ldyIndexed r off => Sys2Proof.Machine.execLdyIndexed r off s
  | .ldyExtended hhhh => Sys2Proof.Machine.execLdyExtended hhhh s
  | .lduImmediate imm => Sys2Proof.Machine.execLduImmediate imm s
  | .lduDirect nn => Sys2Proof.Machine.execLduDirect nn s
  | .lduIndexed r off => Sys2Proof.Machine.execLduIndexed r off s
  | .lduExtended hhhh => Sys2Proof.Machine.execLduExtended hhhh s
  | .ldsImmediate imm => Sys2Proof.Machine.execLdsImmediate imm s
  | .ldsDirect nn => Sys2Proof.Machine.execLdsDirect nn s
  | .ldsIndexed r off => Sys2Proof.Machine.execLdsIndexed r off s
  | .ldsExtended hhhh => Sys2Proof.Machine.execLdsExtended hhhh s
  | .staDirect nn => Sys2Proof.Machine.execStaDirect nn s
  | .staIndexed r off => Sys2Proof.Machine.execStaIndexed r off s
  | .staExtended hhhh => Sys2Proof.Machine.execStaExtended hhhh s
  | .stbDirect nn => Sys2Proof.Machine.execStbDirect nn s
  | .stbIndexed r off => Sys2Proof.Machine.execStbIndexed r off s
  | .stbExtended hhhh => Sys2Proof.Machine.execStbExtended hhhh s
  | .stxDirect nn => Sys2Proof.Machine.execStxDirect nn s
  | .stxIndexed r off => Sys2Proof.Machine.execStxIndexed r off s
  | .stxExtended hhhh => Sys2Proof.Machine.execStxExtended hhhh s
  | .styDirect nn => Sys2Proof.Machine.execStyDirect nn s
  | .styIndexed r off => Sys2Proof.Machine.execStyIndexed r off s
  | .styExtended hhhh => Sys2Proof.Machine.execStyExtended hhhh s
  | .stuDirect nn => Sys2Proof.Machine.execStuDirect nn s
  | .stuIndexed r off => Sys2Proof.Machine.execStuIndexed r off s
  | .stuExtended hhhh => Sys2Proof.Machine.execStuExtended hhhh s
  | .stsDirect nn => Sys2Proof.Machine.execStsDirect nn s
  | .stsIndexed r off => Sys2Proof.Machine.execStsIndexed r off s
  | .stsExtended hhhh => Sys2Proof.Machine.execStsExtended hhhh s
  | .addaImmediate ii => Sys2Proof.Machine.execAddaImmediate ii s
  | .addaDirect nn => Sys2Proof.Machine.execAddaDirect nn s
  | .addaIndexed r off => Sys2Proof.Machine.execAddaIndexed r off s
  | .addaExtended hhhh => Sys2Proof.Machine.execAddaExtended hhhh s
  | .addbImmediate ii => Sys2Proof.Machine.execAddbImmediate ii s
  | .addbDirect nn => Sys2Proof.Machine.execAddbDirect nn s
  | .addbIndexed r off => Sys2Proof.Machine.execAddbIndexed r off s
  | .addbExtended hhhh => Sys2Proof.Machine.execAddbExtended hhhh s
  | .subaImmediate ii => Sys2Proof.Machine.execSubaImmediate ii s
  | .subaDirect nn => Sys2Proof.Machine.execSubaDirect nn s
  | .subaIndexed r off => Sys2Proof.Machine.execSubaIndexed r off s
  | .subaExtended hhhh => Sys2Proof.Machine.execSubaExtended hhhh s
  | .subbImmediate ii => Sys2Proof.Machine.execSubbImmediate ii s
  | .subbDirect nn => Sys2Proof.Machine.execSubbDirect nn s
  | .subbIndexed r off => Sys2Proof.Machine.execSubbIndexed r off s
  | .subbExtended hhhh => Sys2Proof.Machine.execSubbExtended hhhh s
  | .cmpaImmediate ii => Sys2Proof.Machine.execCmpaImmediate ii s
  | .cmpaDirect nn => Sys2Proof.Machine.execCmpaDirect nn s
  | .cmpaIndexed r off => Sys2Proof.Machine.execCmpaIndexed r off s
  | .cmpaExtended hhhh => Sys2Proof.Machine.execCmpaExtended hhhh s
  | .cmpbImmediate ii => Sys2Proof.Machine.execCmpbImmediate ii s
  | .cmpbDirect nn => Sys2Proof.Machine.execCmpbDirect nn s
  | .cmpbIndexed r off => Sys2Proof.Machine.execCmpbIndexed r off s
  | .cmpbExtended hhhh => Sys2Proof.Machine.execCmpbExtended hhhh s
  | .inca => Sys2Proof.Machine.execInca s
  | .incb => Sys2Proof.Machine.execIncb s
  | .deca => Sys2Proof.Machine.execDeca s
  | .decb => Sys2Proof.Machine.execDecb s
  | .lsla => Sys2Proof.Machine.execLsla s
  | .lslb => Sys2Proof.Machine.execLslb s
  | .lsra => Sys2Proof.Machine.execLsra s
  | .lsrb => Sys2Proof.Machine.execLsrb s
  | .rola => Sys2Proof.Machine.execRola s
  | .rolb => Sys2Proof.Machine.execRolb s
  | .rora => Sys2Proof.Machine.execRora s
  | .rorb => Sys2Proof.Machine.execRorb s
  | .andaImmediate ii => Sys2Proof.Machine.execAndaImmediate ii s
  | .andaDirect nn => Sys2Proof.Machine.execAndaDirect nn s
  | .andaIndexed r off => Sys2Proof.Machine.execAndaIndexed r off s
  | .andaExtended hhhh => Sys2Proof.Machine.execAndaExtended hhhh s
  | .andbImmediate ii => Sys2Proof.Machine.execAndbImmediate ii s
  | .andbDirect nn => Sys2Proof.Machine.execAndbDirect nn s
  | .andbIndexed r off => Sys2Proof.Machine.execAndbIndexed r off s
  | .andbExtended hhhh => Sys2Proof.Machine.execAndbExtended hhhh s
  | .oraImmediate ii => Sys2Proof.Machine.execOraImmediate ii s
  | .oraDirect nn => Sys2Proof.Machine.execOraDirect nn s
  | .oraIndexed r off => Sys2Proof.Machine.execOraIndexed r off s
  | .oraExtended hhhh => Sys2Proof.Machine.execOraExtended hhhh s
  | .orbImmediate ii => Sys2Proof.Machine.execOrbImmediate ii s
  | .orbDirect nn => Sys2Proof.Machine.execOrbDirect nn s
  | .orbIndexed r off => Sys2Proof.Machine.execOrbIndexed r off s
  | .orbExtended hhhh => Sys2Proof.Machine.execOrbExtended hhhh s
  | .eoraImmediate ii => Sys2Proof.Machine.execEoraImmediate ii s
  | .eoraDirect nn => Sys2Proof.Machine.execEoraDirect nn s
  | .eoraIndexed r off => Sys2Proof.Machine.execEoraIndexed r off s
  | .eoraExtended hhhh => Sys2Proof.Machine.execEoraExtended hhhh s
  | .eorbImmediate ii => Sys2Proof.Machine.execEorbImmediate ii s
  | .eorbDirect nn => Sys2Proof.Machine.execEorbDirect nn s
  | .eorbIndexed r off => Sys2Proof.Machine.execEorbIndexed r off s
  | .eorbExtended hhhh => Sys2Proof.Machine.execEorbExtended hhhh s
  | .clra => Sys2Proof.Machine.execClra s
  | .clrb => Sys2Proof.Machine.execClrb s
  | .coma => Sys2Proof.Machine.execComa s
  | .comb => Sys2Proof.Machine.execComb s
  | .nega => Sys2Proof.Machine.execNega s
  | .negb => Sys2Proof.Machine.execNegb s
  | .tfr r1 r2 => Sys2Proof.Machine.execTfr r1 r2 s
  | .exg r1 r2 => Sys2Proof.Machine.execExg r1 r2 s
  | .jmp l => Sys2Proof.Machine.execJmp l s
  | .bra l => Sys2Proof.Machine.execBra l s
  | .beq l => Sys2Proof.Machine.execBeq l s
  | .bne l => Sys2Proof.Machine.execBne l s
  | .bmi l => Sys2Proof.Machine.execBmi l s
  | .bpl l => Sys2Proof.Machine.execBpl l s
  | .bcc l => Sys2Proof.Machine.execBcc l s
  | .bcs l => Sys2Proof.Machine.execBcs l s
  | .bvc l => Sys2Proof.Machine.execBvc l s
  | .bvs l => Sys2Proof.Machine.execBvs l s
  | .jsr l => Sys2Proof.Machine.execJsr l s
  | .bsr l => Sys2Proof.Machine.execBsr l s
  | .rts => Sys2Proof.Machine.execRts s
  | .swi => Sys2Proof.Machine.execSwi s
  | .endProgram => Sys2Proof.Machine.execEndProgram s
  | .nop => Sys2Proof.Machine.execNop s

end Sys2Proof.Machine
end

