-- ==== Sys2Proof/Machine/Fetch.lean ====
section
/-!
DEFINITION. Reading the current line (40_execution_cycle.md R213 to R216).
-/
namespace Sys2Proof.Machine

/-- What a step finds at `line`. -/
inductive Fetched where
  /-- No line is left (R213). -/
  | exhausted
  /-- A blank line (R215). -/
  | blank
  /-- A line that spells this instruction (R214). -/
  | instr (i : Instr)
  /-- A mnemonic without a rule (47_system.md R423). -/
  | unknownMnemonic
  /-- A line validation would have refused with this kind (R216). -/
  | malformed (kind : ErrorKind)
deriving DecidableEq, Repr

/-- What a line holds; the step decodes it again each time (30_encoding.md R116). -/
def readLine (p : Params) : Line → Fetched
  | .blank => .blank
  | .instr mn op =>
    match Mnemonic.ofText p mn with
    | none => .unknownMnemonic
    | some _ =>
      match decodeLine p mn op with
      | .ok i => .instr i
      | .error k => .malformed k

/-- What the step finds at the current line of the line stream (R214). -/
def fetch (st : State) : Fetched :=
  match st.stream[st.line]? with
  | none => .exhausted
  | some ln => readLine st.params ln

end Sys2Proof.Machine
end

