-- ==== Sys2Proof/Machine/Assembler.lean ====
section
/-!
DEFINITION. The assembler: preprocessing, the two passes, the END and fit checks, and emission (30_encoding.md R110 to
R115, R130 to R134, R170 to R178).
-/
namespace Sys2Proof.Machine

/-- An assembly error: its kind, and the 1-based line number where it has one (R131, R500). -/
abbrev AsmError := ErrorKind × Option Nat

/-- What a successful assembly gives the core (R177). -/
structure Assembled where
  stream : List Line
  labels : LabelTable
  image : ProgStore
deriving DecidableEq, Repr

/-! ## Preprocessing -/

/-- The text without its comment, upper-case and trimmed (R111 steps 1 to 3). -/
def normalise (raw : Text) : Text :=
  trim ((raw.takeWhile (· ≠ ';')).map upperChar)

/-- The label a normalised line declares, if it contains `:` (R111 step 4, R113). -/
def labelPart (t : Text) : Option Label :=
  if t.contains ':' then some (trim (t.takeWhile (· ≠ ':'))) else none

/-- What stays of a normalised line after its label and colon are deleted (R111 step 4). -/
def instrPart (t : Text) : Text :=
  if t.contains ':' then trim (t.dropWhile (· ≠ ':')).tail else t

/-- The line that the tokens make; three or more are an error (R111 steps 5 and 6, R115). -/
def lineOfTokens : List Text → Option Line
  | [] => some .blank
  | [m] => some (.instr m none)
  | [m, op] => some (.instr m (some op))
  | _ => none

/-- A legal label declaration: not empty, without whitespace, not declared before (R114). -/
def labelDeclares (labels : LabelTable) (l : Label) : Bool :=
  !l.isEmpty && !l.any isSpace && (labels.lookup l).isNone

/-- The label table after line `i`, or `none` if the line's declaration is an error (R113, R114). -/
def declare (labels : LabelTable) (i : Nat) : Option Label → Option LabelTable
  | none => some labels
  | some l => if labelDeclares labels l then some (labels ++ [(l, i)]) else none

/-! ## Pass 1 -/

/-- Pass 1 over the lines from index `i` on, with the labels declared before them (R171). -/
def pass1From (i : Nat) (labels : LabelTable) : List Text → Except AsmError (List Line × LabelTable)
  | [] => .ok ([], labels)
  | raw :: rest =>
    match declare labels i (labelPart (normalise raw)), lineOfTokens (tokens (instrPart (normalise raw))) with
    | some labels', some ln =>
      match pass1From (i + 1) labels' rest with
      | .ok (lns, table) => .ok (ln :: lns, table)
      | .error e => .error e
    | _, _ => .error (.syntaxError, some (i + 1))

/-- Pass 1: the line stream and the label table of a program text (R110, R111, R171). -/
def pass1 (text : Text) : Except AsmError (List Line × LabelTable) :=
  pass1From 0 [] (splitLines text)

/-! ## Pass 2 and the checks after it -/

/-- `validateSyntax` of a line (R130): the checks of `decodeLine`, and V6, the label of a Relative operand. -/
def validateLine (p : Params) (labels : LabelTable) : Line → Except ErrorKind Unit
  | .blank => .ok ()
  | .instr mn op =>
    match decodeLine p mn op with
    | .error k => .error k
    | .ok i =>
      match i.label? with
      | none => .ok ()
      | some l => if (labels.lookup l).isSome then .ok () else .error .labelNotFound

/-- Pass 2 over the lines from index `i` on: the first failing line decides (R131, R172). -/
def pass2From (p : Params) (labels : LabelTable) (i : Nat) : List Line → Except AsmError Unit
  | [] => .ok ()
  | ln :: rest =>
    match validateLine p labels ln with
    | .error k => .error (k, some (i + 1))
    | .ok () => pass2From p labels (i + 1) rest

/-- The last non-blank line is END (R133). -/
def endsWithEnd (stream : List Line) : Bool :=
  match (stream.filter (· ≠ .blank)).getLast? with
  | some (.instr mn _) => mn == Mnemonic.text .endProgram
  | _ => false

/-- The fit check over the lines from index `i`, at address `at_`, on (R175). -/
def fitFrom (p : Params) (i at_ : Nat) : List Line → Except AsmError Unit
  | [] => .ok ()
  | ln :: rest =>
    if ln ≠ .blank ∧ p.programTop.toNat < at_ + max (lineSize p ln) 1 - 1 then
      .error (.programTooLarge, some (i + 1))
    else fitFrom p (i + 1) (at_ + lineSize p ln) rest

/-! ## Emission -/

/-- The bytes of a line at an address (R159, R176). -/
def lineBytes (p : Params) (target : Label → Nat) (at_ : Nat) : Line → List Byte
  | .blank => []
  | .instr mn op =>
    match decodeLine p mn op with
    | .ok i => encode target at_ i
    | .error _ => []

/-- The bytes of the lines from address `at_` on, one after the other (R176). -/
def emitFrom (p : Params) (target : Label → Nat) (at_ : Nat) : List Line → List Byte
  | [] => []
  | ln :: rest => lineBytes p target at_ ln ++ emitFrom p target (at_ + lineSize p ln) rest

/-- Bytes at consecutive addresses from `at_` on. -/
def placeBytes (at_ : Nat) : List Byte → ProgStore
  | [] => []
  | b :: bs => (at_, b) :: placeBytes (at_ + 1) bs

/-- The address of a label's line. After validation every referenced label is in the table (R126). -/
def labelAddr (p : Params) (stream : List Line) (labels : LabelTable) (l : Label) : Nat :=
  match labels.lookup l with
  | some t => lineAddr p stream t
  | none => 0

/-- The program-store image of a validated line stream (R176). -/
def emit (p : Params) (stream : List Line) (labels : LabelTable) : ProgStore :=
  placeBytes Config.base (emitFrom p (labelAddr p stream labels) Config.base stream)

/-! ## Assembly -/

/-- The checks of a line stream, in the order of 60_exceptions.md R504, and then its image. -/
def assembleLines (p : Params) (stream : List Line) (labels : LabelTable) : Except AsmError Assembled :=
  match pass2From p labels 0 stream with
  | .error e => .error e
  | .ok () =>
    if endsWithEnd stream then
      match fitFrom p 0 Config.base stream with
      | .error e => .error e
      | .ok () => .ok { stream := stream, labels := labels, image := emit p stream labels }
    else .error (.missingEnd, none)

/-- The assembly of a program text (R170 to R176). -/
def assembleText (p : Params) (text : Text) : Except AsmError Assembled :=
  match pass1 text with
  | .error e => .error e
  | .ok (stream, labels) => assembleLines p stream labels

/-- The core takes an assembled program: status `Ready`, no error; nothing else changes (R177). -/
def State.install (st : State) (asm : Assembled) : State :=
  { st with
    labels := asm.labels
    stream := asm.stream
    progStore := asm.image
    status := .ready
    lastError := none }

/-- Assemble the host's program text: success (R177), or an error that changes `lastError` alone (R178, R503). -/
def State.assemble (st : State) : State :=
  match assembleText st.params st.text with
  | .ok asm => st.install asm
  | .error e => { st with lastError := some e }

end Sys2Proof.Machine
end

