-- ==== Sys2Proof/Machine/Load.lean ====
section
/-!
DEFINITION. A program of one instruction, placed as an assembly would place it: what the host's words stand for (log 13).
-/
namespace Sys2Proof.Machine

/-- The program `<line>` / `END`. -/
def oneLineProgram (ln : Line) : List Line :=
  [ln, Line.ofInstr .endProgram]

/-- The label table that declares an instruction's label on the END line (log 13). -/
def oneLineLabels (i : Instr) : LabelTable :=
  match i.label? with
  | none => []
  | some l => [(l, 1)]

/-- The state with `stream` and `labels` assembled and about to run from line 0 (R177, R606). -/
def State.placeProgram (st : State) (stream : List Line) (labels : LabelTable) : State :=
  { st.install { stream := stream, labels := labels, image := emit st.params stream labels } with
    line := 0
    pc := BitVec.ofNat 16 Config.base }

/-- The state about to run instruction `i` from line 0, followed by END. -/
def State.placeInstr (st : State) (i : Instr) : State :=
  st.placeProgram (oneLineProgram (Line.ofInstr i)) (oneLineLabels i)

/-- The state about to run the instruction that a word of the opcode table decodes to; a word that decodes to
none is placed as a line with no mnemonic, which the step refuses (47_system.md R423). -/
def State.placeWord (st : State) (nbits w : Nat) : State :=
  match decodeTableWord nbits w with
  | some i => st.placeInstr i
  | none => st.placeProgram (oneLineProgram (.instr [] none)) []

end Sys2Proof.Machine
end

