-- ==== Sys2Proof/Machine/Step.lean ====
section
/-!
DEFINITION. One step (40_execution_cycle.md R210 to R216), and placing one instruction where the next step reads it.
-/
namespace Sys2Proof.Machine

/-- One step: assemble (R211), nothing (R212), or one line of the stream (R213 to R216). -/
def step (s : State) : Host.Outcome State Fault Refusal :=
  match s.status with
  | .notAssembled => .next s.assemble
  | .halted _ => .next s
  | .ready | .running =>
    match fetch s with
    | .exhausted => .next (s.halt .exhausted)
    | .blank => .next s.begin.skipBlank
    | .instr i => exec i s.begin
    | .unknownMnemonic => .next (s.raise .unsupportedInstruction)
    | .malformed k => .fault (.malformedLine k)

/-- The state with the instruction of an opcode-table word as the next line the step reads (log 13). -/
def State.withFetchWord (s : State) (nbits w : Nat) : State :=
  s.placeWord nbits w

end Sys2Proof.Machine
end

