-- ==== Sys2Proof/Machine/Commands.lean ====
section
/-!
DEFINITION. The host's six commands and the snapshot after each (40_execution_cycle.md R225 to R233; 70_reset_and_hazards.md
R600 to R604).
-/
namespace Sys2Proof.Machine

/-- The commands of the host (section 4 of 40_execution_cycle.md). -/
inductive Command where
  | assemble
  | step
  | run
  | reset
  | loadProgram (text : Text)
  | saveProgram
deriving DecidableEq, Repr

/-- Reset: every piece of core state takes its reset value (R600); the host's text (R604) and the parameters
stay, and values already drawn are not drawn again (log 15). -/
def State.toReset (st : State) : State :=
  { State.reset with text := st.text, params := st.params, draws := st.draws }

/-- `Assemble`: assemble in `NotAssembled` (R226), else reset (R227). -/
def assembleCommand (st : State) : State :=
  match st.status with
  | .notAssembled => st.assemble
  | .ready | .running | .halted _ => st.toReset

/-- `LoadProgram(text)`: reset, then replace the text (R231). -/
def loadProgram (text : Text) (st : State) : State :=
  { st.toReset with text := text }

/-- At most `fuel` steps, up to the first halt (R225). Running out of fuel is not a halt (log 14). -/
def runSteps : Nat → State → Result
  | 0, st => .next st
  | fuel + 1, st =>
    match st.status with
    | .halted _ => .next st
    | .notAssembled | .ready | .running =>
      match step st with
      | .next st' => runSteps fuel st'
      | .fault r => .fault r
      | .refused r => .refused r

/-- `Run`: assemble only, run, or nothing (R229). -/
def runCommand (fuel : Nat) (st : State) : Result :=
  match st.status with
  | .notAssembled => .next st.assemble
  | .halted _ => .next st
  | .ready | .running => runSteps fuel st

/-! ## The snapshot -/

/-- How many bytes a mnemonic stores (20_memory.md R91). -/
def storeWidth (m : Mnemonic) : Nat :=
  if m == .sta || m == .stb then 1
  else if m == .stx || m == .sty || m == .stu || m == .sts then 2
  else 0

/-- The data-store addresses an instruction writes (R84, R101). -/
def storedAddrs (st : State) (i : Instr) : List Word :=
  match i.operand with
  | .mem m => (List.range (storeWidth i.mnemonic)).map (fun k => st.ea m + BitVec.ofNat 16 k)
  | _ => []

/-- The data-store addresses the next step writes. -/
def stepStores (st : State) : List Word :=
  match st.status with
  | .notAssembled | .halted _ => []
  | .ready | .running =>
    match fetch st with
    | .instr i => storedAddrs st i
    | .exhausted | .blank | .unknownMnemonic | .malformed _ => []

/-- The data-store addresses that at most `fuel` steps write. -/
def runStores : Nat → State → List Word
  | 0, _ => []
  | fuel + 1, st =>
    stepStores st ++
      (match step st with
      | .next st' => runStores fuel st'
      | .fault _ => []
      | .refused _ => [])

/-- What the host sees after a command (R232). The call stack and the label table are not in it. The program store,
which 20_memory.md R81 says a snapshot may show and R232 does not list, is not in it either (DESIGN CHOICE, log 20). -/
structure Snapshot where
  a : Byte
  b : Byte
  dp : Byte
  x : Word
  y : Word
  u : Word
  s : Word
  pc : Word
  n : Bool
  z : Bool
  v : Bool
  c : Bool
  h : Bool
  /-- The addresses written during the command, rising, with their new bytes. -/
  written : List Host.Cell
  status : Status
  lastError : Option (ErrorKind × Option Nat)
  line : Nat
deriving DecidableEq, Repr

/-- The written addresses with the bytes they now hold, each once. -/
def writtenCells (m : Memory) (addrs : List Word) : List Host.Cell :=
  addrs.foldl (fun cells a => insertCell a.toNat (m.read a) cells) []

/-- The snapshot of a state after a command that wrote these addresses. -/
def State.snapshot (st : State) (addrs : List Word) : Snapshot where
  a := st.a
  b := st.b
  dp := st.dp
  x := st.x
  y := st.y
  u := st.u
  s := st.s
  pc := st.pc
  n := st.n
  z := st.z
  v := st.v
  c := st.c
  h := st.h
  written := writtenCells st.dataStore addrs
  status := st.status
  lastError := st.lastError
  line := st.line

/-! ## Commands -/

/-- What a command gives back: the state, the snapshot, the text that `SaveProgram` returns (R231), and whether the core
reports "execution complete" (R212). -/
structure Reply where
  state : State
  snapshot : Snapshot
  saved : Option Text
  executionComplete : Bool
deriving DecidableEq, Repr

/-- The reply of a command that ends in `st`, wrote these addresses, and neither saves nor reports. -/
def reply (st : State) (addrs : List Word) : Reply :=
  { state := st, snapshot := st.snapshot addrs, saved := none, executionComplete := false }

/-- The reply to an outcome, with the report "execution complete" or without. -/
def replyTo (complete : Bool) (addrs : List Word) : Result → Host.Outcome Reply Fault Refusal
  | .next st => .next { reply st addrs with executionComplete := complete }
  | .fault r => .fault r
  | .refused r => .refused r

/-- Whether a `Step` or a `Run` from this state reports "execution complete": in `Halted`, by R212 for a step; a `Run`
there is the no-op of R212 by R229 (DEDUCED, log 23). -/
def State.reportsComplete (st : State) : Bool :=
  match st.status with
  | .halted _ => true
  | .notAssembled | .ready | .running => false

/-- The addresses a `Run` writes: none when it only assembles or does nothing (R229). -/
def runCommandStores (fuel : Nat) (st : State) : List Word :=
  match st.status with
  | .notAssembled | .halted _ => []
  | .ready | .running => runStores fuel st

/-- One command of the host, run to completion (R226 to R233); `fuel` bounds a `Run` (R225). The snapshot of a command
that resets lists no written byte: R232 does not say whether a byte that the reset clears is written (DESIGN CHOICE,
log 22). -/
def command (fuel : Nat) (cmd : Command) (st : State) : Host.Outcome Reply Fault Refusal :=
  match cmd with
  | .assemble => .next (reply (assembleCommand st) [])
  | .step => replyTo st.reportsComplete (stepStores st) (step st)
  | .run => replyTo st.reportsComplete (runCommandStores fuel st) (runCommand fuel st)
  | .reset => .next (reply st.toReset [])
  | .loadProgram text => .next (reply (loadProgram text st) [])
  | .saveProgram => .next { reply st [] with saved := some st.text }

end Sys2Proof.Machine
end

