-- ==== Sys2Proof/Safety.lean ====
section
/-!
DEFINITION. The terms claims use: the rows of a family by mode, the flag writers of 10_state.md R49, and what a sound state
of the core is, the invariants the spec states of every state reached from reset.
-/
namespace Sys2Proof

/-! ## Rows by mode -/

/-- One value for each mode of an 8-bit source: Immediate, Direct, Indexed, Extended. -/
def Src8.pick {α : Type} (imm dir idx ext : α) : Src8 → α
  | .imm _ => imm
  | .mem (.direct _) => dir
  | .mem (.indexed _ _) => idx
  | .mem (.extended _) => ext

/-- One value for each mode of a 16-bit source. -/
def Src16.pick {α : Type} (imm dir idx ext : α) : Src16 → α
  | .imm _ => imm
  | .mem (.direct _) => dir
  | .mem (.indexed _ _) => idx
  | .mem (.extended _) => ext

/-- One value for each mode of a store. -/
def MemOperand.pick {α : Type} (dir idx ext : α) : MemOperand → α
  | .direct _ => dir
  | .indexed _ _ => idx
  | .extended _ => ext

/-- The operand bytes of a 16-bit source: an immediate of one byte exists only under
`IMM_SIZE_RULE = LiteralDigits` (30_encoding.md R159, R161). -/
def Src16.byteCount : Src16 → Nat
  | .imm (.byte _) => 1
  | .imm (.word _) => 2
  | .mem (.direct _) => 1
  | .mem (.indexed _ _) => 2
  | .mem (.extended _) => 2

/-! ## The flag writers of 10_state.md R49 -/

/-- The mnemonics that write Z and N. -/
def Mnemonic.writesZN (m : Mnemonic) : Bool :=
  m ∈ [.lda, .ldb, .ldx, .ldy, .ldu, .lds, .adda, .addb, .suba, .subb, .cmpa, .cmpb, .inca, .incb, .deca, .decb,
    .lsla, .lslb, .lsra, .lsrb, .rola, .rolb, .rora, .rorb, .anda, .andb, .ora, .orb, .eora, .eorb, .clra, .clrb,
    .coma, .comb, .nega, .negb]

/-- The mnemonics that write V. -/
def Mnemonic.writesV (m : Mnemonic) : Bool :=
  m ∈ [.adda, .addb, .suba, .subb, .cmpa, .cmpb, .inca, .incb, .deca, .decb, .anda, .andb, .ora, .orb, .eora, .eorb]

/-- The mnemonics that write C. -/
def Mnemonic.writesC (m : Mnemonic) : Bool :=
  m ∈ [.adda, .addb, .suba, .subb, .cmpa, .cmpb, .lsla, .lslb, .lsra, .lsrb, .rola, .rolb, .rora, .rorb, .clra,
    .clrb, .coma, .comb, .nega, .negb]

/-- The mnemonics that write H under `H_ON_ADD = Draw`. -/
def Mnemonic.drawsH (m : Mnemonic) : Bool :=
  m ∈ [.adda, .addb]

end Sys2Proof

namespace Sys2Proof.Machine

/-- `move(v, r)` with `ZeroExtendTruncate`, for a value held zero-extended (45_register_move.md R363). -/
def moveValue (r : PairReg) (v : Word) : Word :=
  if pairIs8 r then BitVec.ofNat 16 (v.toNat % 256) else v

/-- `k` executions of one instruction, one after the other. -/
def execTimes : Nat → Instr → State → Result
  | 0, _, s => .next s
  | k + 1, i, s =>
    match exec i s with
    | .next t => execTimes k i t
    | .fault r => .fault r
    | .refused r => .refused r

/-! ## Sound states -/

/-- The state's line stream, label table and program store are those of a successful assembly
(30_encoding.md R177), of some program text, under the state's parameters. -/
def State.ProgramOk (st : State) : Prop :=
  ∃ text asm, assembleText st.params text = .ok asm ∧
    st.stream = asm.stream ∧ st.labels = asm.labels ∧ st.progStore = asm.image

/-- Every return address on the call stack is the address of a line of the stream (46_control_transfer.md R396). -/
def State.ReturnsOk (st : State) : Prop :=
  ∀ a ∈ st.callStack, ∃ j, j < st.stream.length ∧ st.addr j = a.toNat

/-- No more return addresses than `CALL_STACK_DEPTH` (R392). -/
def State.DepthOk (st : State) : Prop :=
  ∀ d, st.params.callStackDepth = some d → st.callStack.length ≤ d

/-- `pc = addr(line)` without wrapping (10_state.md R42, R43), at a line of the stream or just past it. -/
def State.PcOk (st : State) : Prop :=
  st.line ≤ st.stream.length ∧ st.addr st.line = st.pc.toNat

/-- A halt by execution error has one of the two kinds an assembled program can raise (60_exceptions.md R509). -/
def State.StatusOk (st : State) : Prop :=
  ∀ k, st.status = .halted (.fault k) → k = .unknownRegister ∨ k = .callStackOverflow

/-- What R58 says of a core that is not assembled: the program position, the program and the call stack hold
their reset values. -/
def State.Unassembled (st : State) : Prop :=
  st.line = 0 ∧ st.pc = 0xFE00 ∧ st.callStack = [] ∧ st.stream = [] ∧ st.labels = [] ∧ st.progStore = []

/-- The invariant of the core. -/
structure State.Sound (st : State) : Prop where
  /-- The data store is in canonical form. -/
  data : st.dataStore.wf = true
  /-- DP holds its reset value (10_state.md R35). -/
  dp : st.dp = 0
  /-- H holds its reset value unless `H_ON_ADD = Draw` (R48). -/
  half : st.params.hOnAdd = .unchanged → st.h = false
  depth : st.DepthOk
  status : st.StatusOk
  unassembled : st.status = .notAssembled → st.Unassembled
  assembled : st.status ≠ .notAssembled → st.ProgramOk ∧ st.PcOk ∧ st.ReturnsOk

/-- The status is `Ready` or `Running`: a step reads a line (R214). -/
def State.Live (st : State) : Prop :=
  st.status = .ready ∨ st.status = .running

/-- A run that ends: the status is `Halted` (R234). -/
def State.Halted (st : State) : Prop :=
  ∃ r, st.status = .halted r

/-- `RunsIn k s t`: exactly `k` steps lead from `s` to `t`, none of them from a halted state (40_execution_cycle.md
R225). -/
inductive RunsIn : Nat → State → State → Prop where
  | done (s : State) : RunsIn 0 s s
  | step {k : Nat} {s t u : State} : ¬ s.Halted → step s = .next t → RunsIn k t u → RunsIn (k + 1) s u

/-! ## Source text -/

/-- The decimal digits, each at its value. -/
def decimalDigits : Text := ['0', '1', '2', '3', '4', '5', '6', '7', '8', '9']

/-- The hexadecimal digits of normalised text, each at its value (30_encoding.md R112). -/
def hexDigits : Text := decimalDigits ++ ['A', 'B', 'C', 'D', 'E', 'F']

/-- `ds` is a numeral: one or more of the digits. -/
def IsNumeral (digits ds : Text) : Prop :=
  ds ≠ [] ∧ ∀ c ∈ ds, c ∈ digits

/-- The value of a numeral, in the base that has these digits. -/
def numeralValue (digits ds : Text) : Nat :=
  ds.foldl (fun v c => digits.length * v + digits.idxOf c) 0

/-- The label that line `i` of a text declares, if the line exists and declares one (30_encoding.md R113). -/
def declaredLabel (text : Text) (i : Nat) : Option Label :=
  (splitLines text)[i]?.bind (fun raw => labelPart (normalise raw))

/-- Line `i` of a text has an error of pass 1: its label is empty, contains whitespace or is declared by an earlier line
(30_encoding.md R114), or three or more tokens are left after its label (R115). -/
def PassOneError (text : Text) (i : Nat) : Prop :=
  (∃ l, declaredLabel text i = some l ∧
    (l = [] ∨ (∃ c ∈ l, isSpace c = true) ∨ ∃ j, j < i ∧ declaredLabel text j = some l)) ∨
  ∃ raw, (splitLines text)[i]? = some raw ∧ 3 ≤ (tokens (instrPart (normalise raw))).length

end Sys2Proof.Machine
end

