-- ==== Sys2Proof/Certificates/Slice0/Obligations.lean ====
section
/-!
DEFINITION. The statements for the provers.
-/

open Sys2Proof Sys2Proof.Machine

/-! ## Encoding and decoding -/

/-- Nine byte strings of 95_test_vectors.md T1.1, T2.2, T4, T5, T6 and T8 decode to the instructions they are listed for, and
a byte that begins no opcode string is refused. That 1F F8 is refused is the model's choice (log 21): 45_register_move.md
R364 defines no behaviour for a nibble that names no register. -/
def Obligations.SpecWordsDecode : Prop :=
  decode Config.defaults [0x86, 0x10] = .ok (.ldaImmediate 0x10, []) ∧
  decode Config.defaults [0x10, 0xBE, 0x00, 0x30] = .ok (.ldyExtended 0x0030, []) ∧
  decode Config.defaults [0x10, 0xEF, 0xE4, 0xFE] = .ok (.stsIndexed .s 0xFE, []) ∧
  decode Config.defaults [0x1F, 0x89] = .ok (.tfr .a .b, []) ∧
  decode Config.defaults [0x1E, 0x34] = .ok (.exg .u .s, []) ∧
  decode Config.defaults [0x8B, 0xFF] = .ok (.addaImmediate 0xFF, []) ∧
  decode Config.defaults [0xEB, 0x84, 0x00] = .ok (.addbIndexed .x 0x00, []) ∧
  decode Config.defaults [0x4C] = .ok (.inca, []) ∧
  decode Config.defaults [0x3F] = .ok (.swi, []) ∧
  decode Config.defaults [0x3D] = .error .noRow ∧
  decode Config.defaults [0x1F, 0xF8] = .error (.noRegister 0xF)

/-- 30_encoding.md R150, R153, R181: the ROM has 126 rows, END alone has no opcode bytes, and no opcode string
of another row equals or begins another's. -/
def Obligations.OpcodeRomUnambiguous : Prop :=
  rom.length = 126 ∧
  rom.filter (fun r => r.opcode.isEmpty) = [⟨.endProgram, .inherent, []⟩] ∧
  (rom.filter (fun r => !r.opcode.isEmpty)).Pairwise
    (fun r r' => ¬ r.opcode <+: r'.opcode ∧ ¬ r'.opcode <+: r.opcode)

/-- Decoding the bytes of an instruction gives it back, for every row but END and the Relative rows, whose bytes
hold no label, and but a one-byte 16-bit immediate, which the byte decoder does not read (logs 9 and 11). Every
operand takes every value, under every parameter setting. -/
def Obligations.DecodeInvertsEncode : Prop :=
  ∀ (p : Params) (target : Label → Nat) (at_ : Nat) (i : Instr) (rest : List Byte),
    i ≠ .endProgram → i.label? = none → (∀ ii, i.operand ≠ .imm16 (.byte ii)) →
    decode p (encode target at_ i ++ rest) = .ok (i, rest)

/-- 30_encoding.md R180: `decode(address)` at an address where an instruction's bytes stand gives its mnemonic and
mode, and under the default size rule its length; at an empty address it gives none; and it gives a row only where
that row's opcode string stands. -/
def Obligations.DecodeAtReturnsRow : Prop :=
  (∀ (p : Params) (target : Label → Nat) (i : Instr) (m : ProgStore) (a : Word),
    i.wellFormed p = true → i ≠ .endProgram →
    (∀ k b, (encode target a.toNat i)[k]? = some b → m.byte? (a + BitVec.ofNat 16 k) = some b) →
    ∃ n, m.decodeAt p a = some (i.mnemonic, i.mode, n) ∧ (p.immSizeRule = .registerWidth → n = i.size)) ∧
  (∀ (p : Params) (m : ProgStore) (a : Word), m.byte? a = none → m.decodeAt p a = none) ∧
  (∀ (p : Params) (m : ProgStore) (a : Word) (mn : Mnemonic) (md : Mode) (n : Nat),
    m.decodeAt p a = some (mn, md, n) →
    ∃ op, op ≠ [] ∧ romOpcode mn md = some op ∧
      ∀ k b, op[k]? = some b → m.byte? (a + BitVec.ofNat 16 k) = some b)

/-- 30_encoding.md R165 to R168: the Indexed post-byte and offset, the RegisterPair post-byte, the displacement
byte and the absolute address, each after the opcode. -/
def Obligations.EncodeFollowsFormats : Prop :=
  ∀ (target : Label → Nat) (at_ : Nat) (i : Instr),
    (∀ r off, i.operand = .mem (.indexed r off) →
      encode target at_ i = i.opcode ++
        [(match r with | .x => 0x84 | .y => 0xA4 | .u => 0xC4 | .s => 0xE4), off]) ∧
    (∀ r1 r2, i.operand = .pair r1 r2 →
      ∃ pb : Byte, encode target at_ i = i.opcode ++ [pb] ∧
        (pb.toNat / 16, pb.toNat % 16) =
          ((match r1 with | .d => 0 | .x => 1 | .y => 2 | .u => 3 | .s => 4 | .a => 8 | .b => 9),
           (match r2 with | .d => 0 | .x => 1 | .y => 2 | .u => 3 | .s => 4 | .a => 8 | .b => 9))) ∧
    (∀ l, i.operand = .label l → i.mnemonic ≠ .jmp → i.mnemonic ≠ .jsr →
      ∃ dd : Byte, encode target at_ i = i.opcode ++ [dd] ∧
        (dd.toNat : Int) = ((target l : Int) - ((at_ : Int) + 2)) % 256) ∧
    (∀ l, i.operand = .label l → (i.mnemonic = .jmp ∨ i.mnemonic = .jsr) →
      ∃ hh ll : Byte, encode target at_ i = i.opcode ++ [hh, ll] ∧
        hh.toNat * 256 + ll.toNat = target l % 65536)

/-- 30_encoding.md R157, R160: an instruction's encoding has as many bytes as its size, the size is at most 4, and
END alone has size 0. -/
def Obligations.EncodedLengthIsSize : Prop :=
  ∀ (target : Label → Nat) (at_ : Nat) (i : Instr),
    (encode target at_ i).length = i.size ∧ i.size ≤ 4 ∧ (i.size = 0 ↔ i = .endProgram)

/-- 30_encoding.md R125: the offset of an Indexed operand is empty text, or a decimal numeral with an optional sign and a
value in -128..127, or `$` and one or two hexadecimal digits; it has the value R125 gives it, and any other text before the
comma is a `SyntaxError`. -/
def Obligations.IndexedOffsets : Prop :=
  (∀ (t : Text) (b : Byte), parseOffset t = some b ↔
    (t = [] ∧ b = 0) ∨
    (∃ ds, IsNumeral decimalDigits ds ∧ (t = ds ∨ t = '+' :: ds) ∧
      numeralValue decimalDigits ds ≤ 127 ∧ b = BitVec.ofNat 8 (numeralValue decimalDigits ds)) ∨
    (∃ ds, IsNumeral decimalDigits ds ∧ t = '-' :: ds ∧
      numeralValue decimalDigits ds ≤ 128 ∧ b = BitVec.ofInt 8 (-(numeralValue decimalDigits ds : Int))) ∨
    (∃ ds, IsNumeral hexDigits ds ∧ ds.length ≤ 2 ∧ t = '$' :: ds ∧
      b = BitVec.ofNat 8 (numeralValue hexDigits ds))) ∧
  (∀ (t : Text) (r : IdxReg), ',' ∉ t →
    parseIndexed (t ++ [',', r.letter]) =
      match parseOffset t with
      | some b => .ok (.mem (.indexed r b))
      | none => .error .syntaxError)

/-- Reading the line that spells a well-formed instruction gives the instruction back, for every row and every
operand value. -/
def Obligations.LineTextRoundTrip : Prop :=
  ∀ (p : Params) (i : Instr), i.wellFormed p = true →
    decodeLine p i.mnemonic.text i.operand.text = .ok i

/-! ## Assembly -/

/-- 30_encoding.md R112: case is normalised before anything else reads the text. For a character outside ASCII the
upper case is a free value (log 5), so this is for text of ASCII characters. -/
def Obligations.CaseIsIgnored : Prop :=
  ∀ (p : Params) (text : Text), (∀ c ∈ text, c.toNat < 128) →
    assembleText p (text.map upperChar) = assembleText p text ∧
    assembleText p (text.map Char.toLower) = assembleText p text

/-- 40_execution_cycle.md R211 with 30_encoding.md R177 and R178: a step in NotAssembled assembles the text, and a
failed assembly changes `lastError` alone. -/
def Obligations.StepAssembles : Prop :=
  ∀ s : State, s.status = .notAssembled →
    (∀ asm, assembleText s.params s.text = .ok asm →
      step s = .next { s with
        labels := asm.labels
        stream := asm.stream
        progStore := asm.image
        status := .ready
        lastError := none }) ∧
    (∀ k n, assembleText s.params s.text = .error (k, n) → step s = .next { s with lastError := some (k, n) })

/-- 30_encoding.md R133: the last non-blank line of an assembled program is END, and a program whose lines all pass
both passes but whose last non-blank line is not END, or that has none, fails with `MissingEnd`. -/
def Obligations.AssembledEndsWithEnd : Prop :=
  (∀ p text asm, assembleText p text = .ok asm →
    ∃ pre post, asm.stream = pre ++ .instr (Mnemonic.text .endProgram) none :: post ∧ ∀ ln ∈ post, ln = .blank) ∧
  (∀ p text lns labels, pass1 text = .ok (lns, labels) → pass2From p labels 0 lns = .ok () →
    (¬ ∃ pre post, lns = pre ++ .instr (Mnemonic.text .endProgram) none :: post ∧ ∀ ln ∈ post, ln = .blank) →
    assembleText p text = .error (.missingEnd, none))

/-- 30_encoding.md R175: every non-blank line of an assembled program lies at or below `PROGRAM_TOP`, and the first
line that does not fails the assembly with its number. -/
def Obligations.AssembledFits : Prop :=
  (∀ p text asm, assembleText p text = .ok asm →
    ∀ i ln, asm.stream[i]? = some ln → ln ≠ .blank →
      lineAddr p asm.stream i + max (lineSize p ln) 1 - 1 ≤ p.programTop.toNat) ∧
  (∀ p text lns labels, pass1 text = .ok (lns, labels) → pass2From p labels 0 lns = .ok () →
    endsWithEnd lns = true →
    ∀ k ln, lns[k]? = some ln → ln ≠ .blank →
      p.programTop.toNat < lineAddr p lns k + max (lineSize p ln) 1 - 1 →
      (∀ j ln', j < k → lns[j]? = some ln' → ln' ≠ .blank →
        lineAddr p lns j + max (lineSize p ln') 1 - 1 ≤ p.programTop.toNat) →
      assembleText p text = .error (.programTooLarge, some (k + 1)))

/-- 40_execution_cycle.md R216, 30_encoding.md R126: every line of an assembled program decodes, and a label it
names is declared on a line of the program. -/
def Obligations.AssembledLinesDecode : Prop :=
  ∀ p text asm, assembleText p text = .ok asm →
    ∀ mn op, .instr mn op ∈ asm.stream →
      ∃ i, decodeLine p mn op = .ok i ∧
        ∀ l, i.label? = some l → ∃ t, asm.labels.lookup l = some t ∧ t < asm.stream.length

/-- 60_exceptions.md R504 items 1 and 2, 30_encoding.md R131, R132: the first line, from the top, with an error of pass 1
(R114, R115) is reported before anything else; pass 1 refuses no other text; and then the first line that fails validation
is reported. -/
def Obligations.FirstFailingLineReported : Prop :=
  (∀ p text k, PassOneError text k → (∀ j, j < k → ¬ PassOneError text j) →
    assembleText p text = .error (.syntaxError, some (k + 1))) ∧
  (∀ text, (∀ k, ¬ PassOneError text k) → ∃ lns labels, pass1 text = .ok (lns, labels)) ∧
  (∀ p text e, pass1 text = .error e → assembleText p text = .error e) ∧
  (∀ p text lns labels, pass1 text = .ok (lns, labels) →
    ∀ k ln kind, lns[k]? = some ln → validateLine p labels ln = .error kind →
      (∀ j ln', j < k → lns[j]? = some ln' → validateLine p labels ln' = .ok ()) →
      assembleText p text = .error (kind, some (k + 1)))

/-- 30_encoding.md R113, 10_state.md R55: the label table of an assembled program binds a name to a line exactly
when that line of the text declares it. -/
def Obligations.LabelsNameDeclaringLines : Prop :=
  ∀ p text asm, assembleText p text = .ok asm →
    ∀ l t, asm.labels.lookup l = some t ↔
      ∃ raw, (splitLines text)[t]? = some raw ∧ labelPart (normalise raw) = some l

/-- 30_encoding.md R176: each line's bytes stand from its address on, and every address before `BASE` or after the
last line is empty. -/
def Obligations.EmissionPlacesEncodings : Prop :=
  ∀ p text asm, assembleText p text = .ok asm →
    (∀ i mn op ins, asm.stream[i]? = some (.instr mn op) → decodeLine p mn op = .ok ins →
      ∀ k b, (encode (labelAddr p asm.stream asm.labels) (lineAddr p asm.stream i) ins)[k]? = some b →
        cellAt (lineAddr p asm.stream i + k) asm.image = some b) ∧
    (∀ a, a < 0xFE00 ∨ lineAddr p asm.stream asm.stream.length ≤ a → cellAt a asm.image = none) ∧
    asm.image.wf = true

/-- 95_test_vectors.md T1.1 on whole programs: `decode(addr(i))` in the image of an assembled program gives line i's
mnemonic and mode, for every line but END. -/
def Obligations.ImageDecodesBack : Prop :=
  ∀ p text asm, assembleText p text = .ok asm →
    ∀ i mn op ins, asm.stream[i]? = some (.instr mn op) → decodeLine p mn op = .ok ins → ins ≠ .endProgram →
      ∃ n, ProgStore.decodeAt p asm.image (BitVec.ofNat 16 (lineAddr p asm.stream i)) =
        some (ins.mnemonic, ins.mode, n)

/-- 30_encoding.md R164, 10_state.md R43: in an assembled program every instruction other than END has a smaller address
than every later line, no line's address lies above 0xFFFF, and line 0 stands at `BASE`. END has size 0, so an END
before the last line shares its address with the line after it (log 17). -/
def Obligations.AddressesRise : Prop :=
  ∀ p text asm, assembleText p text = .ok asm →
    lineAddr p asm.stream 0 = 0xFE00 ∧
    (∀ i, i ≤ asm.stream.length → lineAddr p asm.stream i ≤ 0xFFFF) ∧
    ∀ i j mn op, asm.stream[i]? = some (.instr mn op) → mn ≠ Mnemonic.text .endProgram → i < j →
      lineAddr p asm.stream i < lineAddr p asm.stream j

/-! ## The step -/

/-- 40_execution_cycle.md R214: where the current line decodes to an instruction, the step is that instruction's
meaning, in status Running. -/
def Obligations.StepRunsDecodedInstruction : Prop :=
  ∀ (s : State) (mn : Text) (op : Option Text) (i : Instr), s.Live →
    s.stream[s.line]? = some (.instr mn op) → decodeLine s.params mn op = .ok i →
    step s = exec i { s with status := .running }

/-- The model's two faults (log 8). A step faults only on a line that validation would have refused, which no assembled
program holds (40_execution_cycle.md R216, 46_control_transfer.md R380), and never refuses; a taken transfer to an
undeclared label faults by name. -/
def Obligations.FaultsNeedUnvalidatedLine : Prop :=
  (∀ s f, step s = .fault f →
    s.Live ∧ ∃ mn op, s.stream[s.line]? = some (.instr mn op) ∧
      validateLine s.params s.labels (.instr mn op) ≠ .ok ()) ∧
  (∀ s r, step s ≠ .refused r) ∧
  (∀ (s : State) (l : Label), s.labels.lookup l = none →
    exec (.jmp l) s = .fault (.unboundLabel l) ∧
    (∀ k, s.holds k = true → exec (.branch k l) s = .fault (.unboundLabel l)) ∧
    (s.params.callStackDepth ≠ some s.callStack.length →
      exec (.jsr l) s = .fault (.unboundLabel l) ∧ exec (.bsr l) s = .fault (.unboundLabel l)))

/-- A word of the opcode table that decodes to an instruction, placed as the next instruction, is what the next step
runs (the model's own way of placing it, log 13). -/
def Obligations.PlacedWordRuns : Prop :=
  ∀ (s : State) (nbits w : Nat) (i : Instr), decodeTableWord nbits w = some i → s.params.callInsns = .admitted →
    step (s.withFetchWord nbits w) = exec i { s.withFetchWord nbits w with status := .running }

/-- 40_execution_cycle.md R213, R215 and 47_system.md R423, in `Ready` or `Running`: no line left halts with `Exhausted`;
a blank line takes one step, which increments `line` and, with the status Running, changes nothing else; a mnemonic
without a rule halts with `UnsupportedInstruction`. -/
def Obligations.StepWithoutInstruction : Prop :=
  ∀ s : State, s.Live →
    (s.stream.length ≤ s.line → step s = .next { s with status := .halted .exhausted }) ∧
    (s.stream[s.line]? = some .blank → step s = .next { s with status := .running, line := s.line + 1 }) ∧
    (∀ mn op, s.stream[s.line]? = some (.instr mn op) → Mnemonic.ofText s.params mn = none →
      step s = .next { s with
        status := .halted (.fault .unsupportedInstruction)
        lastError := some (.unsupportedInstruction, none) })

/-- 60_exceptions.md R508, 40_execution_cycle.md R212: a step or a run in `Halted` changes nothing and reports "execution
complete", `SaveProgram` changes nothing, and the commands that leave `Halted` are the three that reset. That a run reports
it is deduced (log 23), and that a reset lists no written byte is the model's choice (log 22). -/
def Obligations.HaltedIsTerminal : Prop :=
  ∀ (s : State) (r : HaltReason) (fuel : Nat), s.status = .halted r →
    step s = .next s ∧
    command fuel .step s = .next { reply s [] with executionComplete := true } ∧
    command fuel .run s = .next { reply s [] with executionComplete := true } ∧
    command fuel .saveProgram s = .next { reply s [] with saved := some s.text } ∧
    command fuel .reset s = .next (reply s.toReset []) ∧
    command fuel .assemble s = .next (reply s.toReset []) ∧
    ∀ text, command fuel (.loadProgram text) s = .next (reply { s.toReset with text := text } [])

/-! ## Loads and stores -/

/-- 41_load_store.md R240, R241: LDA and LDB, in all four modes. -/
def Obligations.LoadAccumulatorResult : Prop :=
  ∀ (s : State) (src : Src8),
    (Instr.load8 .a src).opcode = [src.pick 0x86 0x96 0xA6 0xB6] ∧
    exec (.load8 .a src) s = .next { s with
      a := s.operand8 src
      z := decide (s.operand8 src = 0)
      n := (s.operand8 src).getLsbD 7
      line := s.line + 1
      pc := s.pc + src.pick 2 2 3 3 } ∧
    (Instr.load8 .b src).opcode = [src.pick 0xC6 0xD6 0xE6 0xF6] ∧
    exec (.load8 .b src) s = .next { s with
      b := s.operand8 src
      z := decide (s.operand8 src = 0)
      n := (s.operand8 src).getLsbD 7
      line := s.line + 1
      pc := s.pc + src.pick 2 2 3 3 }

/-- 41_load_store.md R242 to R246: LDX, LDY, LDU and LDS, in all four modes, for both values of `LOAD16_N_BIT` and
both immediate sizes. -/
def Obligations.LoadIndexResult : Prop :=
  ∀ (s : State) (src : Src16),
    let w := s.operand16 src
    let n := match s.params.load16NBit with | .bit7 => w.getLsbD 7 | .bit15 => w.getLsbD 15
    (Instr.load16 .x src).opcode = [src.pick 0x8E 0x9E 0xAE 0xBE] ∧
    exec (.load16 .x src) s = .next { s with
      x := w, z := decide (w = 0), n := n, line := s.line + 1
      pc := s.pc + BitVec.ofNat 16 (1 + src.byteCount) } ∧
    (Instr.load16 .y src).opcode = [0x10, src.pick 0x8E 0x9E 0xAE 0xBE] ∧
    exec (.load16 .y src) s = .next { s with
      y := w, z := decide (w = 0), n := n, line := s.line + 1
      pc := s.pc + BitVec.ofNat 16 (2 + src.byteCount) } ∧
    (Instr.load16 .u src).opcode = [src.pick 0xCE 0xDE 0xEE 0xFE] ∧
    exec (.load16 .u src) s = .next { s with
      u := w, z := decide (w = 0), n := n, line := s.line + 1
      pc := s.pc + BitVec.ofNat 16 (1 + src.byteCount) } ∧
    (Instr.load16 .s src).opcode = [0x10, src.pick 0xCE 0xDE 0xEE 0xFE] ∧
    exec (.load16 .s src) s = .next { s with
      s := w, z := decide (w = 0), n := n, line := s.line + 1
      pc := s.pc + BitVec.ofNat 16 (2 + src.byteCount) }

/-- 41_load_store.md R250, R251: STA and STB have no Immediate row, write one byte at the effective address, which the
snapshot reports, leave every other byte, and change nothing else. -/
def Obligations.StoreAccumulatorResult : Prop :=
  ∀ (s : State) (m : MemOperand) (r : Acc),
    (Instr.store8 r m).opcode =
      (match r with | .a => [m.pick 0x97 0xA7 0xB7] | .b => [m.pick 0xD7 0xE7 0xF7]) ∧
    romOpcode (Instr.store8 r m).mnemonic .immediate = none ∧
    storedAddrs s (.store8 r m) = [s.ea m] ∧
    ∃ t, exec (.store8 r m) s = .next t ∧
      t = { s with dataStore := t.dataStore, line := s.line + 1, pc := s.pc + m.pick 2 3 3 } ∧
      (s.dataStore.wf = true → t.dataStore.read (s.ea m) = s.acc r) ∧
      ∀ a, a ≠ s.ea m → t.dataStore.read a = s.dataStore.read a

/-- 41_load_store.md R252 to R255: STX, STY, STU and STS have no Immediate row, write the high byte at the effective
address and the low byte at the next address modulo 0x10000, which the snapshot reports, leave every other byte, and
change nothing else. -/
def Obligations.StoreIndexResult : Prop :=
  ∀ (s : State) (m : MemOperand) (r : IdxReg),
    (Instr.store16 r m).opcode =
      (match r with
        | .x => [m.pick 0x9F 0xAF 0xBF]
        | .y => [0x10, m.pick 0x9F 0xAF 0xBF]
        | .u => [m.pick 0xDF 0xEF 0xFF]
        | .s => [0x10, m.pick 0xDF 0xEF 0xFF]) ∧
    romOpcode (Instr.store16 r m).mnemonic .immediate = none ∧
    storedAddrs s (.store16 r m) = [s.ea m, s.ea m + 1] ∧
    ∃ t, exec (.store16 r m) s = .next t ∧
      t = { s with
        dataStore := t.dataStore
        line := s.line + 1
        pc := s.pc + (match r with | .x | .u => m.pick 2 3 3 | .y | .s => m.pick 3 4 4) } ∧
      (s.dataStore.wf = true →
        (t.dataStore.read (s.ea m)).toNat = (s.idx r).toNat / 256 ∧
        (t.dataStore.read (s.ea m + 1)).toNat = (s.idx r).toNat % 256) ∧
      ∀ a, a ≠ s.ea m → a ≠ s.ea m + 1 → t.dataStore.read a = s.dataStore.read a

/-- 40_execution_cycle.md R217 to R221, as arithmetic: the effective addresses and what an operand reads. -/
def Obligations.OperandForms : Prop :=
  ∀ s : State,
    (∀ nn, (s.ea (.direct nn)).toNat = s.dp.toNat * 256 + nn.toNat) ∧
    (∀ hhhh, s.ea (.extended hhhh) = hhhh) ∧
    (∀ r off, ((s.ea (.indexed r off)).toNat : Int) = ((s.idx r).toNat + off.toInt) % 65536) ∧
    (∀ ii, s.operand8 (.imm ii) = ii) ∧
    (∀ m, s.operand8 (.mem m) = s.dataStore.read (s.ea m)) ∧
    (∀ hhll, s.operand16 (.imm (.word hhll)) = hhll) ∧
    (∀ ii, (s.operand16 (.imm (.byte ii))).toNat = ii.toNat) ∧
    (∀ m, (s.operand16 (.mem m)).toNat =
      (s.dataStore.read (s.ea m)).toNat * 256 + (s.dataStore.read (s.ea m + 1)).toNat)

/-- 20_memory.md R86 to R88: a 16-bit read of what was just stored there gives it back, at every address including
0xFFFF, and a write keeps the canonical form of the store. -/
def Obligations.StoreThenLoadReturnsWord : Prop :=
  ∀ (m : Memory) (a v : Word), m.wf = true →
    (m.write16 a v).read16 a = v ∧
    (m.write16 a v).read a = v.extractLsb' 8 8 ∧
    (m.write16 a v).read (a + 1) = v.extractLsb' 0 8 ∧
    (m.write16 a v).wf = true ∧
    ∀ a', a' ≠ a → a' ≠ a + 1 → (m.write16 a v).read a' = m.read a'

/-! ## Arithmetic -/

/-- 42_add_sub_compare.md R270, R271, R276: ADDA and ADDB in all four modes, with H by `H_ON_ADD`. The rules say only that a
drawn H is unconstrained: that it is `Config.drawnH` of the counter `draws`, and that the counter then rises, is the model's
choice (log 3); nothing constrains the value. -/
def Obligations.AddResult : Prop :=
  ∀ (s : State) (src : Src8),
    let m := s.operand8 src
    let hh := match s.params.hOnAdd with | .unchanged => s.h | .draw => Config.drawnH s.draws
    let dd := match s.params.hOnAdd with | .unchanged => s.draws | .draw => s.draws + 1
    (Instr.arith .add .a src).opcode = [src.pick 0x8B 0x9B 0xAB 0xBB] ∧
    exec (.arith .add .a src) s = .next { s with
      a := s.a + m
      n := (s.a + m).getLsbD 7
      z := decide (s.a + m = 0)
      v := decide ((s.a ^^^ (s.a + m)) &&& (m ^^^ (s.a + m)) &&& 0x80 ≠ 0)
      c := decide (0xFF < s.a.toNat + m.toNat)
      h := hh, draws := dd, line := s.line + 1, pc := s.pc + src.pick 2 2 3 3 } ∧
    (Instr.arith .add .b src).opcode = [src.pick 0xCB 0xDB 0xEB 0xFB] ∧
    exec (.arith .add .b src) s = .next { s with
      b := s.b + m
      n := (s.b + m).getLsbD 7
      z := decide (s.b + m = 0)
      v := decide ((s.b ^^^ (s.b + m)) &&& (m ^^^ (s.b + m)) &&& 0x80 ≠ 0)
      c := decide (0xFF < s.b.toNat + m.toNat)
      h := hh, draws := dd, line := s.line + 1, pc := s.pc + src.pick 2 2 3 3 }

/-- 42_add_sub_compare.md R272, R273, R277: SUBA and SUBB in all four modes; C is the borrow. -/
def Obligations.SubResult : Prop :=
  ∀ (s : State) (src : Src8),
    let m := s.operand8 src
    (Instr.arith .sub .a src).opcode = [src.pick 0x80 0x90 0xA0 0xB0] ∧
    exec (.arith .sub .a src) s = .next { s with
      a := s.a - m
      n := (s.a - m).getLsbD 7
      z := decide (s.a - m = 0)
      v := decide ((s.a ^^^ m) &&& (s.a ^^^ (s.a - m)) &&& 0x80 ≠ 0)
      c := decide (s.a.toNat < m.toNat)
      line := s.line + 1, pc := s.pc + src.pick 2 2 3 3 } ∧
    (Instr.arith .sub .b src).opcode = [src.pick 0xC0 0xD0 0xE0 0xF0] ∧
    exec (.arith .sub .b src) s = .next { s with
      b := s.b - m
      n := (s.b - m).getLsbD 7
      z := decide (s.b - m = 0)
      v := decide ((s.b ^^^ m) &&& (s.b ^^^ (s.b - m)) &&& 0x80 ≠ 0)
      c := decide (s.b.toNat < m.toNat)
      line := s.line + 1, pc := s.pc + src.pick 2 2 3 3 }

/-- 42_add_sub_compare.md R274, R275: CMPA and CMPB set the flags of the subtraction and write no register; the
memory operand comes from the store `CMP_OPERAND_STORE` names, and an empty program-store address reads 0x00. -/
def Obligations.CompareResult : Prop :=
  ∀ (s : State) (src : Src8),
    let m := match src with
      | .imm ii => ii
      | .mem o =>
        match s.params.cmpOperandStore with
        | .data => s.dataStore.read (s.ea o)
        | .program => (s.progStore.byte? (s.ea o)).getD 0x00
    (Instr.arith .cmp .a src).opcode = [src.pick 0x81 0x91 0xA1 0xB1] ∧
    exec (.arith .cmp .a src) s = .next { s with
      n := (s.a - m).getLsbD 7
      z := decide (s.a - m = 0)
      v := decide ((s.a ^^^ m) &&& (s.a ^^^ (s.a - m)) &&& 0x80 ≠ 0)
      c := decide (s.a.toNat < m.toNat)
      line := s.line + 1, pc := s.pc + src.pick 2 2 3 3 } ∧
    (Instr.arith .cmp .b src).opcode = [src.pick 0xC1 0xD1 0xE1 0xF1] ∧
    exec (.arith .cmp .b src) s = .next { s with
      n := (s.b - m).getLsbD 7
      z := decide (s.b - m = 0)
      v := decide ((s.b ^^^ m) &&& (s.b ^^^ (s.b - m)) &&& 0x80 ≠ 0)
      c := decide (s.b.toNat < m.toNat)
      line := s.line + 1, pc := s.pc + src.pick 2 2 3 3 }

/-- 42_add_sub_compare.md R278: after ADD or SUB the register holds the signed sum or difference exactly when V=0,
and the unsigned one exactly when C=0. -/
def Obligations.OverflowAndCarryAreExact : Prop :=
  ∀ (s t : State) (r : Acc) (src : Src8),
    (exec (.arith .add r src) s = .next t →
      (t.v = false ↔ (t.acc r).toInt = (s.acc r).toInt + (s.operand8 src).toInt) ∧
      (t.c = false ↔ (t.acc r).toNat = (s.acc r).toNat + (s.operand8 src).toNat)) ∧
    (exec (.arith .sub r src) s = .next t →
      (t.v = false ↔ (t.acc r).toInt = (s.acc r).toInt - (s.operand8 src).toInt) ∧
      (t.c = false ↔ ((t.acc r).toNat : Int) = ((s.acc r).toNat : Int) - ((s.operand8 src).toNat : Int)))

/-- 43_inc_dec_shift.md R300 to R303: INCA, INCB, DECA and DECB. C and H are unchanged. -/
def Obligations.IncrementDecrementResult : Prop :=
  ∀ s : State,
    (Instr.inca.opcode, Instr.incb.opcode, Instr.deca.opcode, Instr.decb.opcode) = ([0x4C], [0x5C], [0x4A], [0x5A]) ∧
    exec .inca s = .next { s with
      a := s.a + 1, v := decide (s.a = 0x7F), z := decide (s.a + 1 = 0), n := (s.a + 1).getLsbD 7
      line := s.line + 1, pc := s.pc + 1 } ∧
    exec .incb s = .next { s with
      b := s.b + 1, v := decide (s.b = 0x7F), z := decide (s.b + 1 = 0), n := (s.b + 1).getLsbD 7
      line := s.line + 1, pc := s.pc + 1 } ∧
    exec .deca s = .next { s with
      a := s.a - 1, v := decide (s.a = 0x80), z := decide (s.a - 1 = 0), n := (s.a - 1).getLsbD 7
      line := s.line + 1, pc := s.pc + 1 } ∧
    exec .decb s = .next { s with
      b := s.b - 1, v := decide (s.b = 0x80), z := decide (s.b - 1 = 0), n := (s.b - 1).getLsbD 7
      line := s.line + 1, pc := s.pc + 1 }

/-- 43_inc_dec_shift.md R304 to R307, as arithmetic: LSL doubles modulo 256, LSR halves, and C is the bit shifted
out. V and H are unchanged. -/
def Obligations.ShiftResult : Prop :=
  ∀ (s : State) (r : Acc),
    ((Instr.unary .lsl .a).opcode, (Instr.unary .lsl .b).opcode, (Instr.unary .lsr .a).opcode,
      (Instr.unary .lsr .b).opcode) = ([0x48], [0x58], [0x44], [0x54]) ∧
    (∃ t, exec (.unary .lsl r) s = .next t ∧
      t = { s.setAcc r (t.acc r) with z := t.z, n := t.n, c := t.c, line := s.line + 1, pc := s.pc + 1 } ∧
      (t.acc r).toNat = 2 * (s.acc r).toNat % 256 ∧ (t.c = true ↔ 128 ≤ (s.acc r).toNat) ∧
      (t.z = true ↔ (t.acc r).toNat = 0) ∧ (t.n = true ↔ 128 ≤ (t.acc r).toNat)) ∧
    (∃ t, exec (.unary .lsr r) s = .next t ∧
      t = { s.setAcc r (t.acc r) with z := t.z, n := t.n, c := t.c, line := s.line + 1, pc := s.pc + 1 } ∧
      (t.acc r).toNat = (s.acc r).toNat / 2 ∧ (t.c = true ↔ (s.acc r).toNat % 2 = 1) ∧
      (t.z = true ↔ (t.acc r).toNat = 0) ∧ t.n = false)

/-- 43_inc_dec_shift.md R308 to R311, as arithmetic on the nine bits of the register and C. V and H are unchanged. -/
def Obligations.RotateResult : Prop :=
  ∀ (s : State) (r : Acc),
    ((Instr.unary .rol .a).opcode, (Instr.unary .rol .b).opcode, (Instr.unary .ror .a).opcode,
      (Instr.unary .ror .b).opcode) = ([0x49], [0x59], [0x46], [0x56]) ∧
    (∃ t, exec (.unary .rol r) s = .next t ∧
      t = { s.setAcc r (t.acc r) with z := t.z, n := t.n, c := t.c, line := s.line + 1, pc := s.pc + 1 } ∧
      t.c.toNat * 256 + (t.acc r).toNat = 2 * (s.acc r).toNat + s.c.toNat ∧
      (t.z = true ↔ (t.acc r).toNat = 0) ∧ (t.n = true ↔ 128 ≤ (t.acc r).toNat)) ∧
    (∃ t, exec (.unary .ror r) s = .next t ∧
      t = { s.setAcc r (t.acc r) with z := t.z, n := t.n, c := t.c, line := s.line + 1, pc := s.pc + 1 } ∧
      2 * (t.acc r).toNat + t.c.toNat = s.c.toNat * 256 + (s.acc r).toNat ∧
      (t.z = true ↔ (t.acc r).toNat = 0) ∧ t.n = s.c)

/-- 44_bitwise_unary.md R330 to R335, bit by bit: AND, OR and EOR in all four modes. V is cleared, C and H are
unchanged. -/
def Obligations.BitwiseResult : Prop :=
  ∀ (s : State) (op : LogicOp) (r : Acc) (src : Src8),
    (Instr.logic op r src).opcode =
      (match op, r with
        | .and, .a => [src.pick 0x84 0x94 0xA4 0xB4]
        | .and, .b => [src.pick 0xC4 0xD4 0xE4 0xF4]
        | .or, .a => [src.pick 0x8A 0x9A 0xAA 0xBA]
        | .or, .b => [src.pick 0xCA 0xDA 0xEA 0xFA]
        | .eor, .a => [src.pick 0x88 0x98 0xA8 0xB8]
        | .eor, .b => [src.pick 0xC8 0xD8 0xE8 0xF8]) ∧
    ∃ t, exec (.logic op r src) s = .next t ∧
      t = { s.setAcc r (t.acc r) with
        z := decide (t.acc r = 0), n := (t.acc r).getLsbD 7, v := false
        line := s.line + 1, pc := s.pc + src.pick 2 2 3 3 } ∧
      ∀ k, k < 8 → (t.acc r).getLsbD k =
        (match op with
          | .and => (s.acc r).getLsbD k && (s.operand8 src).getLsbD k
          | .or => (s.acc r).getLsbD k || (s.operand8 src).getLsbD k
          | .eor => (s.acc r).getLsbD k != (s.operand8 src).getLsbD k)

/-- 44_bitwise_unary.md R340 to R345: CLR, COM and NEG on A and B, for both values of `COM_CARRY`. V and H are
unchanged. -/
def Obligations.ClearComplementNegateResult : Prop :=
  ∀ s : State,
    (Instr.clra.opcode, Instr.clrb.opcode, Instr.coma.opcode, Instr.comb.opcode, Instr.nega.opcode,
      Instr.negb.opcode) = ([0x4F], [0x5F], [0x43], [0x53], [0x40], [0x50]) ∧
    exec .clra s = .next { s with a := 0, z := true, n := false, c := false, line := s.line + 1, pc := s.pc + 1 } ∧
    exec .clrb s = .next { s with b := 0, z := true, n := false, c := false, line := s.line + 1, pc := s.pc + 1 } ∧
    exec .coma s = .next { s with
      a := ~~~s.a, z := decide (s.a = 0xFF), n := !s.a.getLsbD 7, c := s.params.comCarry
      line := s.line + 1, pc := s.pc + 1 } ∧
    exec .comb s = .next { s with
      b := ~~~s.b, z := decide (s.b = 0xFF), n := !s.b.getLsbD 7, c := s.params.comCarry
      line := s.line + 1, pc := s.pc + 1 } ∧
    exec .nega s = .next { s with
      a := -s.a, z := decide (s.a = 0), n := (-s.a).getLsbD 7, c := decide (s.a ≠ 0)
      line := s.line + 1, pc := s.pc + 1 } ∧
    exec .negb s = .next { s with
      b := -s.b, z := decide (s.b = 0), n := (-s.b).getLsbD 7, c := decide (s.b ≠ 0)
      line := s.line + 1, pc := s.pc + 1 }

/-! ## Register moves -/

/-- 45_register_move.md R360, R362, R363: TFR raises `UnknownRegister` on D, or on mixed widths under
`MIXED_WIDTH_MOVE = Fault`, and otherwise r2 takes the width-aware value of r1 and nothing else changes. -/
def Obligations.TransferResult : Prop :=
  ∀ (s : State) (r1 r2 : PairReg),
    (∀ target at_, encode target at_ (.tfr r1 r2) = [0x1F, r1.code ++ r2.code]) ∧
    ((r1 = .d ∨ r2 = .d ∨ (pairIs8 r1 ≠ pairIs8 r2 ∧ s.params.mixedWidthMove = .fault)) →
      exec (.tfr r1 r2) s = .next { s with
        status := .halted (.fault .unknownRegister), lastError := some (.unknownRegister, none) }) ∧
    (¬ (r1 = .d ∨ r2 = .d ∨ (pairIs8 r1 ≠ pairIs8 r2 ∧ s.params.mixedWidthMove = .fault)) →
      ∃ t, exec (.tfr r1 r2) s = .next t ∧
        t = { s with
          a := t.a, b := t.b, x := t.x, y := t.y, u := t.u, s := t.s, line := s.line + 1, pc := s.pc + 2 } ∧
        t.pairReg r2 = moveValue r2 (s.pairReg r1) ∧
        ∀ r, r ≠ r2 → t.pairReg r = s.pairReg r)

/-- 45_register_move.md R361 to R363: EXG raises as TFR does, and otherwise each register takes the width-aware
value the other had. -/
def Obligations.ExchangeResult : Prop :=
  ∀ (s : State) (r1 r2 : PairReg),
    (∀ target at_, encode target at_ (.exg r1 r2) = [0x1E, r1.code ++ r2.code]) ∧
    ((r1 = .d ∨ r2 = .d ∨ (pairIs8 r1 ≠ pairIs8 r2 ∧ s.params.mixedWidthMove = .fault)) →
      exec (.exg r1 r2) s = .next { s with
        status := .halted (.fault .unknownRegister), lastError := some (.unknownRegister, none) }) ∧
    (¬ (r1 = .d ∨ r2 = .d ∨ (pairIs8 r1 ≠ pairIs8 r2 ∧ s.params.mixedWidthMove = .fault)) →
      ∃ t, exec (.exg r1 r2) s = .next t ∧
        t = { s with
          a := t.a, b := t.b, x := t.x, y := t.y, u := t.u, s := t.s, line := s.line + 1, pc := s.pc + 2 } ∧
        t.pairReg r1 = moveValue r1 (s.pairReg r2) ∧
        t.pairReg r2 = moveValue r2 (s.pairReg r1) ∧
        ∀ r, r ≠ r1 → r ≠ r2 → t.pairReg r = s.pairReg r)

/-! ## Control transfer -/

/-- 46_control_transfer.md R381 to R390: JMP, BRA and the conditional branches. -/
def Obligations.BranchResult : Prop :=
  ∀ (s : State) (l : Label),
    (∀ target at_, encode target at_ (.jmp l) =
      [0x7E, hiByte (BitVec.ofNat 16 (target l)), loByte (BitVec.ofNat 16 (target l))]) ∧
    (∀ t, s.labels.lookup l = some t →
      exec (.jmp l) s = .next { s with line := t, pc := BitVec.ofNat 16 (s.addr t) }) ∧
    ∀ k : Cond,
      let taken := match k with
        | .always => true
        | .eq => s.z | .ne => !s.z
        | .mi => s.n | .pl => !s.n
        | .cc => !s.c | .cs => s.c
        | .vc => !s.v | .vs => s.v
      (∀ target at_, encode target at_ (.branch k l) =
        [match k with
          | .always => 0x20
          | .eq => 0x27 | .ne => 0x26
          | .mi => 0x2B | .pl => 0x2A
          | .cc => 0x24 | .cs => 0x25
          | .vc => 0x28 | .vs => 0x29, displacement at_ (target l)]) ∧
      (taken = true → ∀ t, s.labels.lookup l = some t →
        exec (.branch k l) s = .next { s with line := t, pc := BitVec.ofNat 16 (s.addr t) }) ∧
      (taken = false → exec (.branch k l) s = .next { s with line := s.line + 1, pc := s.pc + 2 })

/-- 46_control_transfer.md R392 to R394: JSR and BSR push the address of the next line and transfer, or raise
`CallStackOverflow` on a full stack. -/
def Obligations.CallResult : Prop :=
  ∀ (s : State) (l : Label),
    (∀ target at_, encode target at_ (.jsr l) =
      [0xBD, hiByte (BitVec.ofNat 16 (target l)), loByte (BitVec.ofNat 16 (target l))]) ∧
    (∀ target at_, encode target at_ (.bsr l) = [0x8D, displacement at_ (target l)]) ∧
    (s.params.callStackDepth = some s.callStack.length →
      exec (.jsr l) s = .next { s with
        status := .halted (.fault .callStackOverflow), lastError := some (.callStackOverflow, none) } ∧
      exec (.bsr l) s = .next { s with
        status := .halted (.fault .callStackOverflow), lastError := some (.callStackOverflow, none) }) ∧
    (s.params.callStackDepth ≠ some s.callStack.length → ∀ t, s.labels.lookup l = some t →
      exec (.jsr l) s = .next { s with
        callStack := s.callStack ++ [s.pc + 3], line := t, pc := BitVec.ofNat 16 (s.addr t) } ∧
      exec (.bsr l) s = .next { s with
        callStack := s.callStack ++ [s.pc + 2], line := t, pc := BitVec.ofNat 16 (s.addr t) })

/-- 46_control_transfer.md R395: RTS halts on an empty stack, resumes at the least line with the popped address, and
raises `ReturnAddressNotFound`, with the stack as it was, when no line has it. -/
def Obligations.ReturnResult : Prop :=
  ∀ s : State,
    Instr.rts.opcode = [0x39] ∧
    (s.callStack = [] → exec .rts s = .next { s with status := .halted .returnEmpty }) ∧
    (∀ st a j, s.callStack = st ++ [a] → j < s.stream.length → s.addr j = a.toNat →
      (∀ k, k < j → s.addr k ≠ a.toNat) →
      exec .rts s = .next { s with callStack := st, line := j, pc := a }) ∧
    (∀ st a, s.callStack = st ++ [a] → (∀ j, j < s.stream.length → s.addr j ≠ a.toNat) →
      exec .rts s = .next { s with
        status := .halted (.fault .returnAddressNotFound), lastError := some (.returnAddressNotFound, none) })

/-- 46_control_transfer.md R396: in a sound state, a call that is taken pushes an address from which an RTS, whenever
that call's stack is current, resumes at the line after the call. -/
def Obligations.ReturnResumesAfterCall : Prop :=
  ∀ (s t w : State) (i : Instr), s.Sound → s.Live → fetch s = .instr i → (i.mnemonic = .jsr ∨ i.mnemonic = .bsr) →
    step s = .next t → t.status = .running →
    w.stream = t.stream → w.params = t.params → w.callStack = t.callStack → w.status = .running →
    fetch w = .instr .rts →
    step w = .next { w with
      callStack := s.callStack, line := s.line + 1, pc := s.pc + BitVec.ofNat 16 i.size }

/-! ## System instructions, halts and errors -/

/-- 47_system.md R420 to R422: SWI and END halt and change nothing else, NOP only advances. -/
def Obligations.SystemResult : Prop :=
  ∀ s : State,
    (Instr.swi.opcode, Instr.endProgram.opcode, Instr.nop.opcode) = ([0x3F], [], [0x12]) ∧
    exec .swi s = .next { s with status := .halted .swi } ∧
    exec .endProgram s = .next { s with status := .halted .programEnd } ∧
    exec .nop s = .next { s with line := s.line + 1, pc := s.pc + 1 }

/-- 40_execution_cycle.md R224, 60_exceptions.md R510: a step that raises an execution error changes the status and
`lastError` and nothing else; the error and the instruction that raises it are those of R500. -/
def Obligations.RaiseChangesNothingElse : Prop :=
  ∀ (s t : State) (k : ErrorKind), s.Live → step s = .next t → t.status = .halted (.fault k) →
    t = { s with status := .halted (.fault k), lastError := some (k, none) } ∧
    ((k = .unknownRegister ∧ ∃ r1 r2, fetch s = .instr (.tfr r1 r2) ∨ fetch s = .instr (.exg r1 r2)) ∨
      (k = .callStackOverflow ∧ s.params.callStackDepth = some s.callStack.length ∧
        ∃ l, fetch s = .instr (.jsr l) ∨ fetch s = .instr (.bsr l)) ∨
      (k = .returnAddressNotFound ∧ fetch s = .instr .rts) ∨
      (k = .unsupportedInstruction ∧ fetch s = .unknownMnemonic))

/-- 60_exceptions.md R506, R507: a step that halts normally changes the status and nothing else, and the four reasons
have the causes of R506. -/
def Obligations.HaltChangesOnlyStatus : Prop :=
  ∀ (s t : State) (r : HaltReason), s.Live → step s = .next t → t.status = .halted r → (∀ k, r ≠ .fault k) →
    t = { s with status := .halted r } ∧
    ((r = .programEnd ∧ fetch s = .instr .endProgram) ∨
      (r = .swi ∧ fetch s = .instr .swi) ∨
      (r = .returnEmpty ∧ fetch s = .instr .rts ∧ s.callStack = []) ∨
      (r = .exhausted ∧ s.stream.length ≤ s.line))

/-! ## What instructions never do -/

/-- 10_state.md R49: a flag changes only under a mnemonic that the index lists as its writer. -/
def Obligations.FlagsChangeOnlyByWriters : Prop :=
  ∀ (i : Instr) (s t : State), exec i s = .next t →
    (i.mnemonic.writesZN = false → t.n = s.n ∧ t.z = s.z) ∧
    (i.mnemonic.writesV = false → t.v = s.v) ∧
    (i.mnemonic.writesC = false → t.c = s.c) ∧
    (i.mnemonic.drawsH = false ∨ s.params.hOnAdd = .unchanged → t.h = s.h ∧ t.draws = s.draws)

/-- 10_state.md R35, R48: no instruction writes DP, and with `H_ON_ADD = Unchanged` none writes H, whatever the
state. -/
def Obligations.DirectPageAndHalfCarryKept : Prop :=
  ∀ (s t : State), s.status ≠ .notAssembled → step s = .next t →
    t.dp = s.dp ∧ (s.params.hOnAdd = .unchanged → t.h = s.h)

/-- 20_memory.md R81, R99, 70_reset_and_hazards.md R622: no step of an assembled core changes the program: the line
stream, the label table or the program store. Nor does it change the text and the parameters, which the model's state
carries by its own choice (logs 4 and 1). -/
def Obligations.ProgramFrozenWhileRunning : Prop :=
  ∀ (s t : State), s.status ≠ .notAssembled → step s = .next t →
    t.stream = s.stream ∧ t.labels = s.labels ∧ t.progStore = s.progStore ∧ t.text = s.text ∧ t.params = s.params

/-- 20_memory.md R84, R101: the snapshot after a `Step` lists the data-store addresses that the step's instruction writes,
and the one after a `Run` those that the instructions of its steps write, a byte written with the value it had among them;
each with the byte it now holds. A byte that no snapshot lists is unchanged, and only the stores write any. -/
def Obligations.WrittenBytesAreReported : Prop :=
  (∀ (fuel : Nat) (s : State) (r : Reply), command fuel .step s = .next r →
    ∀ a : Word, cellAt a.toNat r.snapshot.written ≠ none ↔
      ∃ i, s.Live ∧ fetch s = .instr i ∧ a ∈ storedAddrs s i) ∧
  (∀ (fuel : Nat) (s : State) (r : Reply), command fuel .run s = .next r →
    ∀ a : Word, cellAt a.toNat r.snapshot.written ≠ none ↔
      ∃ k w i, s.Live ∧ k < fuel ∧ RunsIn k s w ∧ w.Live ∧ fetch w = .instr i ∧ a ∈ storedAddrs w i) ∧
  (∀ (fuel : Nat) (s : State) (cmd : Command) (r : Reply), cmd = .step ∨ cmd = .run →
    command fuel cmd s = .next r →
    ∀ a : Word, match cellAt a.toNat r.snapshot.written with
      | some b => r.state.dataStore.read a = b
      | none => r.state.dataStore.read a = s.dataStore.read a) ∧
  (∀ (i : Instr) (s t : State), exec i s = .next t →
    (∀ a, a ∉ storedAddrs s i → t.dataStore.read a = s.dataStore.read a) ∧
    (i.mnemonic ∉ [.sta, .stb, .stx, .sty, .stu, .sts] → storedAddrs s i = [] ∧ t.dataStore = s.dataStore))

/-- 20_memory.md R81, 70_reset_and_hazards.md R623: with `CMP_OPERAND_STORE = Data`, what an assembled core does
depends neither on the program store nor on the program text. -/
def Obligations.ProgramStoreNotRead : Prop :=
  ∀ (s t : State) (ps : ProgStore) (tx : Text), s.status ≠ .notAssembled → s.params.cmpOperandStore = .data →
    step s = .next t →
    step { s with progStore := ps, text := tx } = .next { t with progStore := ps, text := tx }

/-! ## Invariants and runs -/

/-- 10_state.md R58 and 70_reset_and_hazards.md R600, R604: the state a reset leaves. The text, the parameters and the
count of draws are the model's own fields and stay (logs 1, 3, 4, 15). -/
def Obligations.ResetLeavesDefaults : Prop :=
  ∀ s : State,
    (s.toReset.a, s.toReset.b, s.toReset.dp) = (0x00, 0x00, 0x00) ∧
    (s.toReset.x, s.toReset.y, s.toReset.u, s.toReset.s, s.toReset.pc) = (0, 0, 0, 0, 0xFE00) ∧
    (s.toReset.n, s.toReset.z, s.toReset.v, s.toReset.c, s.toReset.h) = (false, true, false, false, false) ∧
    s.toReset.line = 0 ∧ s.toReset.callStack = [] ∧ s.toReset.status = .notAssembled ∧ s.toReset.lastError = none ∧
    s.toReset.labels = [] ∧ s.toReset.stream = [] ∧
    (∀ a, s.toReset.progStore.byte? a = none) ∧ (∀ a, s.toReset.dataStore.read a = 0x00) ∧
    s.toReset.text = s.text ∧
    State.reset = { State.reset.toReset with text := State.reset.text }

/-- The reset state is sound. -/
def Obligations.ResetIsSound : Prop :=
  State.reset.Sound

/-- Every step from a sound state keeps it sound: pc is addr(line), every return address is a line's, DP and H hold,
the data store is canonical, the program is an assembled one, and an execution error is `UnknownRegister` or
`CallStackOverflow` (10_state.md R35, R42, R43, R48; 46_control_transfer.md R396; 60_exceptions.md R509). -/
def Obligations.StepKeepsSound : Prop :=
  ∀ s t : State, s.Sound → step s = .next t → t.Sound

/-- From a sound state the step always answers a next state: no fault of the model is reached, no instruction is
refused. -/
def Obligations.SoundStatesStep : Prop :=
  ∀ s : State, s.Sound → ∃ t, step s = .next t

/-- Every command of the host completes in a sound state and leaves a sound state. -/
def Obligations.CommandsKeepSound : Prop :=
  ∀ (fuel : Nat) (cmd : Command) (s : State), s.Sound → ∃ r, command fuel cmd s = .next r ∧ r.state.Sound

/-- 40_execution_cycle.md R225, R234: under a bound of `n` steps a run ends in `t` exactly when `t` is reached in some
`k ≤ n` steps, none of them from a halted state, and `t` is halted or the whole bound is used. So a run that halted is the
same under any larger bound, and one that did not halted under no smaller one. The bound is the model's device (log 14). -/
def Obligations.RunStopsAtFirstHalt : Prop :=
  (∀ (n : Nat) (s t : State), runSteps n s = .next t ↔
    ∃ k, k ≤ n ∧ RunsIn k s t ∧ (¬ t.Halted → k = n)) ∧
  (∀ (n : Nat) (s t : State), runSteps n s = .next t →
    (t.Halted → ∀ m, n ≤ m → runSteps m s = .next t) ∧
    (¬ t.Halted → ∀ m, m ≤ n → ∃ w, runSteps m s = .next w ∧ ¬ w.Halted))

/-- 40_execution_cycle.md R212, R226 to R231: what the six commands do, and which report "execution complete". The model's
own are the bound `fuel` of a run (log 14), what a reset keeps of the model's fields (log 15), the empty written part after
a reset (log 22) and the report of a run in `Halted` (log 23). -/
def Obligations.HostCommands : Prop :=
  ∀ (fuel : Nat) (s : State) (text : Text),
    (s.status = .notAssembled → command fuel .assemble s = replyTo false [] (step s)) ∧
    (s.status ≠ .notAssembled → command fuel .assemble s = .next (reply s.toReset [])) ∧
    (¬ s.Halted → command fuel .step s = replyTo false (stepStores s) (step s)) ∧
    (s.Halted → command fuel .step s = .next { reply s [] with executionComplete := true }) ∧
    (s.status = .notAssembled → command fuel .run s = replyTo false [] (step s)) ∧
    (s.Live → command fuel .run s = replyTo false (runStores fuel s) (runSteps fuel s)) ∧
    (s.Halted → command fuel .run s = .next { reply s [] with executionComplete := true }) ∧
    command fuel .reset s = .next (reply s.toReset []) ∧
    command fuel (.loadProgram text) s = .next (reply { s.toReset with text := text } []) ∧
    command fuel .saveProgram s = .next { reply s [] with saved := some s.text }

/-- 40_execution_cycle.md R232: the snapshot after every command shows the registers, the flags, the status, `lastError` and
the line of the state it leaves; its written part lists exactly the addresses written, each with the byte it now holds. It
shows nothing else: that the program store is not shown is the model's choice (log 20). -/
def Obligations.SnapshotListsWrittenBytes : Prop :=
  (∀ (fuel : Nat) (cmd : Command) (s : State) (r : Reply), command fuel cmd s = .next r →
    r.snapshot =
      { a := r.state.a, b := r.state.b, dp := r.state.dp
        x := r.state.x, y := r.state.y, u := r.state.u, s := r.state.s, pc := r.state.pc
        n := r.state.n, z := r.state.z, v := r.state.v, c := r.state.c, h := r.state.h
        written := r.snapshot.written
        status := r.state.status, lastError := r.state.lastError, line := r.state.line }) ∧
  (∀ (s : State) (addrs : List Word) (a : Word),
    cellAt a.toNat (s.snapshot addrs).written = if a ∈ addrs then some (s.dataStore.read a) else none)
end

