-- ==== Sys2Proof/Laws/PerInstr.lean ====
section
/-!
SUPPORT. Per-instruction families: a statement about one instruction as text, and one lemma for each constructor.
-/
namespace Sys2Proof.Laws

/-- The parts of an instruction determine it: its mnemonic and operand build it again, its mode is its row's, and
the ROM has that row. -/
def PartsRoundTrip.Statement (i : Instr) : Prop :=
  Instr.ofParts i.mnemonic i.operand = some i ∧ romOpcode i.mnemonic i.mode = some i.opcode

theorem PartsRoundTrip.ldaImmediate (ii : Byte) : PartsRoundTrip.Statement (.ldaImmediate ii) := ⟨rfl, rfl⟩
theorem PartsRoundTrip.ldaDirect (nn : Byte) : PartsRoundTrip.Statement (.ldaDirect nn) := ⟨rfl, rfl⟩
theorem PartsRoundTrip.ldaIndexed (r : IdxReg) (off : Byte) : PartsRoundTrip.Statement (.ldaIndexed r off) := ⟨rfl, rfl⟩
theorem PartsRoundTrip.ldaExtended (hhhh : Word) : PartsRoundTrip.Statement (.ldaExtended hhhh) := ⟨rfl, rfl⟩
theorem PartsRoundTrip.ldbImmediate (ii : Byte) : PartsRoundTrip.Statement (.ldbImmediate ii) := ⟨rfl, rfl⟩
theorem PartsRoundTrip.ldbDirect (nn : Byte) : PartsRoundTrip.Statement (.ldbDirect nn) := ⟨rfl, rfl⟩
theorem PartsRoundTrip.ldbIndexed (r : IdxReg) (off : Byte) : PartsRoundTrip.Statement (.ldbIndexed r off) := ⟨rfl, rfl⟩
theorem PartsRoundTrip.ldbExtended (hhhh : Word) : PartsRoundTrip.Statement (.ldbExtended hhhh) := ⟨rfl, rfl⟩
theorem PartsRoundTrip.ldxImmediate (imm : Imm16) : PartsRoundTrip.Statement (.ldxImmediate imm) := ⟨rfl, rfl⟩
theorem PartsRoundTrip.ldxDirect (nn : Byte) : PartsRoundTrip.Statement (.ldxDirect nn) := ⟨rfl, rfl⟩
theorem PartsRoundTrip.ldxIndexed (r : IdxReg) (off : Byte) : PartsRoundTrip.Statement (.ldxIndexed r off) := ⟨rfl, rfl⟩
theorem PartsRoundTrip.ldxExtended (hhhh : Word) : PartsRoundTrip.Statement (.ldxExtended hhhh) := ⟨rfl, rfl⟩
theorem PartsRoundTrip.ldyImmediate (imm : Imm16) : PartsRoundTrip.Statement (.ldyImmediate imm) := ⟨rfl, rfl⟩
theorem PartsRoundTrip.ldyDirect (nn : Byte) : PartsRoundTrip.Statement (.ldyDirect nn) := ⟨rfl, rfl⟩
theorem PartsRoundTrip.ldyIndexed (r : IdxReg) (off : Byte) : PartsRoundTrip.Statement (.ldyIndexed r off) := ⟨rfl, rfl⟩
theorem PartsRoundTrip.ldyExtended (hhhh : Word) : PartsRoundTrip.Statement (.ldyExtended hhhh) := ⟨rfl, rfl⟩
theorem PartsRoundTrip.lduImmediate (imm : Imm16) : PartsRoundTrip.Statement (.lduImmediate imm) := ⟨rfl, rfl⟩
theorem PartsRoundTrip.lduDirect (nn : Byte) : PartsRoundTrip.Statement (.lduDirect nn) := ⟨rfl, rfl⟩
theorem PartsRoundTrip.lduIndexed (r : IdxReg) (off : Byte) : PartsRoundTrip.Statement (.lduIndexed r off) := ⟨rfl, rfl⟩
theorem PartsRoundTrip.lduExtended (hhhh : Word) : PartsRoundTrip.Statement (.lduExtended hhhh) := ⟨rfl, rfl⟩
theorem PartsRoundTrip.ldsImmediate (imm : Imm16) : PartsRoundTrip.Statement (.ldsImmediate imm) := ⟨rfl, rfl⟩
theorem PartsRoundTrip.ldsDirect (nn : Byte) : PartsRoundTrip.Statement (.ldsDirect nn) := ⟨rfl, rfl⟩
theorem PartsRoundTrip.ldsIndexed (r : IdxReg) (off : Byte) : PartsRoundTrip.Statement (.ldsIndexed r off) := ⟨rfl, rfl⟩
theorem PartsRoundTrip.ldsExtended (hhhh : Word) : PartsRoundTrip.Statement (.ldsExtended hhhh) := ⟨rfl, rfl⟩
theorem PartsRoundTrip.staDirect (nn : Byte) : PartsRoundTrip.Statement (.staDirect nn) := ⟨rfl, rfl⟩
theorem PartsRoundTrip.staIndexed (r : IdxReg) (off : Byte) : PartsRoundTrip.Statement (.staIndexed r off) := ⟨rfl, rfl⟩
theorem PartsRoundTrip.staExtended (hhhh : Word) : PartsRoundTrip.Statement (.staExtended hhhh) := ⟨rfl, rfl⟩
theorem PartsRoundTrip.stbDirect (nn : Byte) : PartsRoundTrip.Statement (.stbDirect nn) := ⟨rfl, rfl⟩
theorem PartsRoundTrip.stbIndexed (r : IdxReg) (off : Byte) : PartsRoundTrip.Statement (.stbIndexed r off) := ⟨rfl, rfl⟩
theorem PartsRoundTrip.stbExtended (hhhh : Word) : PartsRoundTrip.Statement (.stbExtended hhhh) := ⟨rfl, rfl⟩
theorem PartsRoundTrip.stxDirect (nn : Byte) : PartsRoundTrip.Statement (.stxDirect nn) := ⟨rfl, rfl⟩
theorem PartsRoundTrip.stxIndexed (r : IdxReg) (off : Byte) : PartsRoundTrip.Statement (.stxIndexed r off) := ⟨rfl, rfl⟩
theorem PartsRoundTrip.stxExtended (hhhh : Word) : PartsRoundTrip.Statement (.stxExtended hhhh) := ⟨rfl, rfl⟩
theorem PartsRoundTrip.styDirect (nn : Byte) : PartsRoundTrip.Statement (.styDirect nn) := ⟨rfl, rfl⟩
theorem PartsRoundTrip.styIndexed (r : IdxReg) (off : Byte) : PartsRoundTrip.Statement (.styIndexed r off) := ⟨rfl, rfl⟩
theorem PartsRoundTrip.styExtended (hhhh : Word) : PartsRoundTrip.Statement (.styExtended hhhh) := ⟨rfl, rfl⟩
theorem PartsRoundTrip.stuDirect (nn : Byte) : PartsRoundTrip.Statement (.stuDirect nn) := ⟨rfl, rfl⟩
theorem PartsRoundTrip.stuIndexed (r : IdxReg) (off : Byte) : PartsRoundTrip.Statement (.stuIndexed r off) := ⟨rfl, rfl⟩
theorem PartsRoundTrip.stuExtended (hhhh : Word) : PartsRoundTrip.Statement (.stuExtended hhhh) := ⟨rfl, rfl⟩
theorem PartsRoundTrip.stsDirect (nn : Byte) : PartsRoundTrip.Statement (.stsDirect nn) := ⟨rfl, rfl⟩
theorem PartsRoundTrip.stsIndexed (r : IdxReg) (off : Byte) : PartsRoundTrip.Statement (.stsIndexed r off) := ⟨rfl, rfl⟩
theorem PartsRoundTrip.stsExtended (hhhh : Word) : PartsRoundTrip.Statement (.stsExtended hhhh) := ⟨rfl, rfl⟩
theorem PartsRoundTrip.addaImmediate (ii : Byte) : PartsRoundTrip.Statement (.addaImmediate ii) := ⟨rfl, rfl⟩
theorem PartsRoundTrip.addaDirect (nn : Byte) : PartsRoundTrip.Statement (.addaDirect nn) := ⟨rfl, rfl⟩
theorem PartsRoundTrip.addaIndexed (r : IdxReg) (off : Byte) : PartsRoundTrip.Statement (.addaIndexed r off) := ⟨rfl, rfl⟩
theorem PartsRoundTrip.addaExtended (hhhh : Word) : PartsRoundTrip.Statement (.addaExtended hhhh) := ⟨rfl, rfl⟩
theorem PartsRoundTrip.addbImmediate (ii : Byte) : PartsRoundTrip.Statement (.addbImmediate ii) := ⟨rfl, rfl⟩
theorem PartsRoundTrip.addbDirect (nn : Byte) : PartsRoundTrip.Statement (.addbDirect nn) := ⟨rfl, rfl⟩
theorem PartsRoundTrip.addbIndexed (r : IdxReg) (off : Byte) : PartsRoundTrip.Statement (.addbIndexed r off) := ⟨rfl, rfl⟩
theorem PartsRoundTrip.addbExtended (hhhh : Word) : PartsRoundTrip.Statement (.addbExtended hhhh) := ⟨rfl, rfl⟩
theorem PartsRoundTrip.subaImmediate (ii : Byte) : PartsRoundTrip.Statement (.subaImmediate ii) := ⟨rfl, rfl⟩
theorem PartsRoundTrip.subaDirect (nn : Byte) : PartsRoundTrip.Statement (.subaDirect nn) := ⟨rfl, rfl⟩
theorem PartsRoundTrip.subaIndexed (r : IdxReg) (off : Byte) : PartsRoundTrip.Statement (.subaIndexed r off) := ⟨rfl, rfl⟩
theorem PartsRoundTrip.subaExtended (hhhh : Word) : PartsRoundTrip.Statement (.subaExtended hhhh) := ⟨rfl, rfl⟩
theorem PartsRoundTrip.subbImmediate (ii : Byte) : PartsRoundTrip.Statement (.subbImmediate ii) := ⟨rfl, rfl⟩
theorem PartsRoundTrip.subbDirect (nn : Byte) : PartsRoundTrip.Statement (.subbDirect nn) := ⟨rfl, rfl⟩
theorem PartsRoundTrip.subbIndexed (r : IdxReg) (off : Byte) : PartsRoundTrip.Statement (.subbIndexed r off) := ⟨rfl, rfl⟩
theorem PartsRoundTrip.subbExtended (hhhh : Word) : PartsRoundTrip.Statement (.subbExtended hhhh) := ⟨rfl, rfl⟩
theorem PartsRoundTrip.cmpaImmediate (ii : Byte) : PartsRoundTrip.Statement (.cmpaImmediate ii) := ⟨rfl, rfl⟩
theorem PartsRoundTrip.cmpaDirect (nn : Byte) : PartsRoundTrip.Statement (.cmpaDirect nn) := ⟨rfl, rfl⟩
theorem PartsRoundTrip.cmpaIndexed (r : IdxReg) (off : Byte) : PartsRoundTrip.Statement (.cmpaIndexed r off) := ⟨rfl, rfl⟩
theorem PartsRoundTrip.cmpaExtended (hhhh : Word) : PartsRoundTrip.Statement (.cmpaExtended hhhh) := ⟨rfl, rfl⟩
theorem PartsRoundTrip.cmpbImmediate (ii : Byte) : PartsRoundTrip.Statement (.cmpbImmediate ii) := ⟨rfl, rfl⟩
theorem PartsRoundTrip.cmpbDirect (nn : Byte) : PartsRoundTrip.Statement (.cmpbDirect nn) := ⟨rfl, rfl⟩
theorem PartsRoundTrip.cmpbIndexed (r : IdxReg) (off : Byte) : PartsRoundTrip.Statement (.cmpbIndexed r off) := ⟨rfl, rfl⟩
theorem PartsRoundTrip.cmpbExtended (hhhh : Word) : PartsRoundTrip.Statement (.cmpbExtended hhhh) := ⟨rfl, rfl⟩
theorem PartsRoundTrip.inca : PartsRoundTrip.Statement .inca := ⟨rfl, rfl⟩
theorem PartsRoundTrip.incb : PartsRoundTrip.Statement .incb := ⟨rfl, rfl⟩
theorem PartsRoundTrip.deca : PartsRoundTrip.Statement .deca := ⟨rfl, rfl⟩
theorem PartsRoundTrip.decb : PartsRoundTrip.Statement .decb := ⟨rfl, rfl⟩
theorem PartsRoundTrip.lsla : PartsRoundTrip.Statement .lsla := ⟨rfl, rfl⟩
theorem PartsRoundTrip.lslb : PartsRoundTrip.Statement .lslb := ⟨rfl, rfl⟩
theorem PartsRoundTrip.lsra : PartsRoundTrip.Statement .lsra := ⟨rfl, rfl⟩
theorem PartsRoundTrip.lsrb : PartsRoundTrip.Statement .lsrb := ⟨rfl, rfl⟩
theorem PartsRoundTrip.rola : PartsRoundTrip.Statement .rola := ⟨rfl, rfl⟩
theorem PartsRoundTrip.rolb : PartsRoundTrip.Statement .rolb := ⟨rfl, rfl⟩
theorem PartsRoundTrip.rora : PartsRoundTrip.Statement .rora := ⟨rfl, rfl⟩
theorem PartsRoundTrip.rorb : PartsRoundTrip.Statement .rorb := ⟨rfl, rfl⟩
theorem PartsRoundTrip.andaImmediate (ii : Byte) : PartsRoundTrip.Statement (.andaImmediate ii) := ⟨rfl, rfl⟩
theorem PartsRoundTrip.andaDirect (nn : Byte) : PartsRoundTrip.Statement (.andaDirect nn) := ⟨rfl, rfl⟩
theorem PartsRoundTrip.andaIndexed (r : IdxReg) (off : Byte) : PartsRoundTrip.Statement (.andaIndexed r off) := ⟨rfl, rfl⟩
theorem PartsRoundTrip.andaExtended (hhhh : Word) : PartsRoundTrip.Statement (.andaExtended hhhh) := ⟨rfl, rfl⟩
theorem PartsRoundTrip.andbImmediate (ii : Byte) : PartsRoundTrip.Statement (.andbImmediate ii) := ⟨rfl, rfl⟩
theorem PartsRoundTrip.andbDirect (nn : Byte) : PartsRoundTrip.Statement (.andbDirect nn) := ⟨rfl, rfl⟩
theorem PartsRoundTrip.andbIndexed (r : IdxReg) (off : Byte) : PartsRoundTrip.Statement (.andbIndexed r off) := ⟨rfl, rfl⟩
theorem PartsRoundTrip.andbExtended (hhhh : Word) : PartsRoundTrip.Statement (.andbExtended hhhh) := ⟨rfl, rfl⟩
theorem PartsRoundTrip.oraImmediate (ii : Byte) : PartsRoundTrip.Statement (.oraImmediate ii) := ⟨rfl, rfl⟩
theorem PartsRoundTrip.oraDirect (nn : Byte) : PartsRoundTrip.Statement (.oraDirect nn) := ⟨rfl, rfl⟩
theorem PartsRoundTrip.oraIndexed (r : IdxReg) (off : Byte) : PartsRoundTrip.Statement (.oraIndexed r off) := ⟨rfl, rfl⟩
theorem PartsRoundTrip.oraExtended (hhhh : Word) : PartsRoundTrip.Statement (.oraExtended hhhh) := ⟨rfl, rfl⟩
theorem PartsRoundTrip.orbImmediate (ii : Byte) : PartsRoundTrip.Statement (.orbImmediate ii) := ⟨rfl, rfl⟩
theorem PartsRoundTrip.orbDirect (nn : Byte) : PartsRoundTrip.Statement (.orbDirect nn) := ⟨rfl, rfl⟩
theorem PartsRoundTrip.orbIndexed (r : IdxReg) (off : Byte) : PartsRoundTrip.Statement (.orbIndexed r off) := ⟨rfl, rfl⟩
theorem PartsRoundTrip.orbExtended (hhhh : Word) : PartsRoundTrip.Statement (.orbExtended hhhh) := ⟨rfl, rfl⟩
theorem PartsRoundTrip.eoraImmediate (ii : Byte) : PartsRoundTrip.Statement (.eoraImmediate ii) := ⟨rfl, rfl⟩
theorem PartsRoundTrip.eoraDirect (nn : Byte) : PartsRoundTrip.Statement (.eoraDirect nn) := ⟨rfl, rfl⟩
theorem PartsRoundTrip.eoraIndexed (r : IdxReg) (off : Byte) : PartsRoundTrip.Statement (.eoraIndexed r off) := ⟨rfl, rfl⟩
theorem PartsRoundTrip.eoraExtended (hhhh : Word) : PartsRoundTrip.Statement (.eoraExtended hhhh) := ⟨rfl, rfl⟩
theorem PartsRoundTrip.eorbImmediate (ii : Byte) : PartsRoundTrip.Statement (.eorbImmediate ii) := ⟨rfl, rfl⟩
theorem PartsRoundTrip.eorbDirect (nn : Byte) : PartsRoundTrip.Statement (.eorbDirect nn) := ⟨rfl, rfl⟩
theorem PartsRoundTrip.eorbIndexed (r : IdxReg) (off : Byte) : PartsRoundTrip.Statement (.eorbIndexed r off) := ⟨rfl, rfl⟩
theorem PartsRoundTrip.eorbExtended (hhhh : Word) : PartsRoundTrip.Statement (.eorbExtended hhhh) := ⟨rfl, rfl⟩
theorem PartsRoundTrip.clra : PartsRoundTrip.Statement .clra := ⟨rfl, rfl⟩
theorem PartsRoundTrip.clrb : PartsRoundTrip.Statement .clrb := ⟨rfl, rfl⟩
theorem PartsRoundTrip.coma : PartsRoundTrip.Statement .coma := ⟨rfl, rfl⟩
theorem PartsRoundTrip.comb : PartsRoundTrip.Statement .comb := ⟨rfl, rfl⟩
theorem PartsRoundTrip.nega : PartsRoundTrip.Statement .nega := ⟨rfl, rfl⟩
theorem PartsRoundTrip.negb : PartsRoundTrip.Statement .negb := ⟨rfl, rfl⟩
theorem PartsRoundTrip.tfr (r1 : PairReg) (r2 : PairReg) : PartsRoundTrip.Statement (.tfr r1 r2) := ⟨rfl, rfl⟩
theorem PartsRoundTrip.exg (r1 : PairReg) (r2 : PairReg) : PartsRoundTrip.Statement (.exg r1 r2) := ⟨rfl, rfl⟩
theorem PartsRoundTrip.jmp (l : Label) : PartsRoundTrip.Statement (.jmp l) := ⟨rfl, rfl⟩
theorem PartsRoundTrip.bra (l : Label) : PartsRoundTrip.Statement (.bra l) := ⟨rfl, rfl⟩
theorem PartsRoundTrip.beq (l : Label) : PartsRoundTrip.Statement (.beq l) := ⟨rfl, rfl⟩
theorem PartsRoundTrip.bne (l : Label) : PartsRoundTrip.Statement (.bne l) := ⟨rfl, rfl⟩
theorem PartsRoundTrip.bmi (l : Label) : PartsRoundTrip.Statement (.bmi l) := ⟨rfl, rfl⟩
theorem PartsRoundTrip.bpl (l : Label) : PartsRoundTrip.Statement (.bpl l) := ⟨rfl, rfl⟩
theorem PartsRoundTrip.bcc (l : Label) : PartsRoundTrip.Statement (.bcc l) := ⟨rfl, rfl⟩
theorem PartsRoundTrip.bcs (l : Label) : PartsRoundTrip.Statement (.bcs l) := ⟨rfl, rfl⟩
theorem PartsRoundTrip.bvc (l : Label) : PartsRoundTrip.Statement (.bvc l) := ⟨rfl, rfl⟩
theorem PartsRoundTrip.bvs (l : Label) : PartsRoundTrip.Statement (.bvs l) := ⟨rfl, rfl⟩
theorem PartsRoundTrip.jsr (l : Label) : PartsRoundTrip.Statement (.jsr l) := ⟨rfl, rfl⟩
theorem PartsRoundTrip.bsr (l : Label) : PartsRoundTrip.Statement (.bsr l) := ⟨rfl, rfl⟩
theorem PartsRoundTrip.rts : PartsRoundTrip.Statement .rts := ⟨rfl, rfl⟩
theorem PartsRoundTrip.swi : PartsRoundTrip.Statement .swi := ⟨rfl, rfl⟩
theorem PartsRoundTrip.endProgram : PartsRoundTrip.Statement .endProgram := ⟨rfl, rfl⟩
theorem PartsRoundTrip.nop : PartsRoundTrip.Statement .nop := ⟨rfl, rfl⟩

end Sys2Proof.Laws
end

