-- ==== Sys2Proof/Laws/Decode.lean ====
section
/-!
SUPPORT. What the readers and writers of Text.lean and Decode.lean can do: numerals, mnemonics, the opcode ROM and the
decoding of a line.
-/
namespace Sys2Proof

/-! ## Numerals -/

theorem hexDigit_hexChar : ∀ d, d < 16 → hexDigit (hexChar d) = some d := by decide

/-- The hexadecimal digits written are digits or the letters A to F. -/
theorem hexChar_toNat : ∀ d, d < 16 →
    48 ≤ (hexChar d).toNat ∧ (hexChar d).toNat ≤ 57 ∨ 65 ≤ (hexChar d).toNat ∧ (hexChar d).toNat ≤ 70 := by decide

@[simp] theorem hexByte_length (b : Byte) : (hexByte b).length = 2 := rfl

theorem mem_hexByte {b : Byte} {c : Char} (h : c ∈ hexByte b) : ∃ d, d < 16 ∧ c = hexChar d := by
  have hb := b.isLt
  simp only [hexByte, List.mem_cons, List.not_mem_nil, or_false] at h
  rcases h with h | h
  · exact ⟨_, by omega, h⟩
  · exact ⟨_, by omega, h⟩

theorem not_mem_hexByte {b : Byte} {c : Char} (h : ∀ d, d < 16 → c ≠ hexChar d) : c ∉ hexByte b := by
  intro hc
  obtain ⟨d, hd, hcd⟩ := mem_hexByte hc
  exact h d hd hcd

theorem comma_ne_hexChar : ∀ d, d < 16 → ',' ≠ hexChar d := by decide
theorem dollar_ne_hexChar : ∀ d, d < 16 → '$' ≠ hexChar d := by decide
theorem hash_ne_hexChar : ∀ d, d < 16 → '#' ≠ hexChar d := by decide

theorem digitsFrom_hexByte (acc : Nat) (b : Byte) (rest : Text) :
    digitsFrom 16 hexDigit acc (hexByte b ++ rest) = digitsFrom 16 hexDigit (256 * acc + b.toNat) rest := by
  have hb := b.isLt
  have h1 := hexDigit_hexChar (b.toNat / 16) (by omega)
  have h2 := hexDigit_hexChar (b.toNat % 16) (by omega)
  simp only [hexByte, List.cons_append, List.nil_append, digitsFrom, h1, h2]
  congr 1
  omega

theorem parseHex_hexByte (b : Byte) : parseHex (hexByte b) = some b.toNat := by
  have h := digitsFrom_hexByte 0 b []
  simp only [List.append_nil, digitsFrom] at h
  simpa [parseHex, hexByte] using h

theorem parseHex_hexWord (h l : Byte) : parseHex (hexByte h ++ hexByte l) = some (h.toNat * 256 + l.toNat) := by
  have h1 := digitsFrom_hexByte 0 h (hexByte l)
  have h2 := digitsFrom_hexByte (256 * 0 + h.toNat) l []
  simp only [List.append_nil, digitsFrom] at h2
  rw [h2] at h1
  have : 256 * (256 * 0 + h.toNat) + l.toNat = h.toNat * 256 + l.toNat := by omega
  rw [this] at h1
  simpa [parseHex, hexByte] using h1

/-! ## Mnemonics -/

theorem Mnemonic.mem_all (m : Mnemonic) : m ∈ Mnemonic.all := by
  cases m <;> decide

theorem Mnemonic.text_inj {m m' : Mnemonic} (h : m.text = m'.text) : m = m' := by
  have key : ∀ a ∈ Mnemonic.all, ∀ b ∈ Mnemonic.all, a.text = b.text → a = b := by
    decide +kernel
  exact key m m.mem_all m' m'.mem_all h

theorem Mnemonic.ofText_some {p : Params} {t : Text} {m : Mnemonic} (h : Mnemonic.ofText p t = some m) :
    m.text = t ∧ m.admitted p = true := by
  have := List.find?_some h
  simpa using this

theorem Mnemonic.ofText_text {p : Params} {m : Mnemonic} (h : m.admitted p = true) :
    Mnemonic.ofText p m.text = some m := by
  cases hf : Mnemonic.ofText p m.text with
  | none =>
    have := List.find?_eq_none.mp hf m m.mem_all
    simp [h] at this
  | some m' => rw [Mnemonic.text_inj (Mnemonic.ofText_some hf).1]

/-! ## The opcode ROM -/

/-- A row is found by its mnemonic and mode exactly when it is in the ROM. -/
theorem romOpcode_eq_some {m : Mnemonic} {md : Mode} {op : List Byte} (h : romOpcode m md = some op) :
    ⟨m, md, op⟩ ∈ rom := by
  unfold romOpcode at h
  obtain ⟨r, hr, rfl⟩ := Option.map_eq_some_iff.mp h
  have h1 := List.find?_some hr
  have h2 := List.mem_of_find?_eq_some hr
  simp only [Bool.and_eq_true, beq_iff_eq] at h1
  obtain ⟨rfl, rfl⟩ := h1
  exact h2

/-- No two rows have one mnemonic and mode. -/
theorem romOpcode_of_mem {r : RomRow} (h : r ∈ rom) : romOpcode r.mnemonic r.mode = some r.opcode := by
  have key : ∀ r ∈ rom, romOpcode r.mnemonic r.mode = some r.opcode := by decide +kernel
  exact key r h

/-- Only END has no opcode bytes, and no row has more than two. -/
theorem rom_opcode_length {r : RomRow} (h : r ∈ rom) :
    r.opcode.length ≤ 2 ∧ (r.opcode = [] ↔ r.mnemonic = .endProgram) := by
  have key : ∀ r ∈ rom, r.opcode.length ≤ 2 ∧ (r.opcode = [] ↔ r.mnemonic = .endProgram) := by decide +kernel
  exact key r h

/-- The row of an opcode string is the one found at the head of bytes that begin with it (R153). -/
theorem findRow_opcode {p : Params} {r : RomRow} (hr : r ∈ rom) (ho : r.opcode ≠ [])
    (ha : r.mnemonic.admitted p = true) (rest : List Byte) : findRow p (r.opcode ++ rest) = some r := by
  have key : ∀ a ∈ rom, ∀ b ∈ rom, a.opcode ≠ [] → b.opcode ≠ [] → a.opcode <+: b.opcode → a = b := by
    decide +kernel
  cases hf : findRow p (r.opcode ++ rest) with
  | none =>
    have := List.find?_eq_none.mp hf r hr
    simp [ha] at this
    exact absurd this ho
  | some r' =>
    have hm := List.mem_of_find?_eq_some hf
    have hp := List.find?_some hf
    simp only [Bool.and_eq_true, List.isPrefixOf_iff_prefix] at hp
    have ho' : r'.opcode ≠ [] := by intro h; simp [h] at hp
    rcases List.prefix_or_prefix_of_prefix hp.1.2 (List.prefix_append r.opcode rest) with h | h
    · rw [key r' hm r hr ho' ho h]
    · rw [key r hr r' hm ho ho' h]

/-- The parts of every instruction build it again, and its row is in the ROM. -/
theorem Instr.parts_round_trip (i : Instr) : Laws.PartsRoundTrip.Statement i := by
  cases i <;> exact ⟨rfl, rfl⟩

theorem Instr.row_mem (i : Instr) : ⟨i.mnemonic, i.mode, i.opcode⟩ ∈ rom :=
  romOpcode_eq_some i.parts_round_trip.2

/-- END alone has size 0. -/
theorem Instr.size_eq_zero {i : Instr} (h : i.size = 0) : i = .endProgram := by
  have ho : i.opcode = [] := List.length_eq_zero_iff.mp (by unfold Instr.size at h; omega)
  have hm := (rom_opcode_length i.row_mem).2.mp ho
  have hp := i.parts_round_trip.1
  simp only at hm
  rw [hm] at hp
  simp only [Instr.ofParts] at hp
  cases hop : i.operand <;> rw [hop] at hp <;> simp_all [Operand.inherent?]

/-- Building an instruction from parts gives those parts. -/
theorem Instr.ofParts_some {m : Mnemonic} {o : Operand} {i : Instr} (h : Instr.ofParts m o = some i) :
    i.mnemonic = m ∧ i.operand = o := by
  cases m <;> cases o <;>
    first
      | (cases h; done)
      | (cases h; exact ⟨rfl, rfl⟩)
      | (rename_i x; cases x <;> first | (cases h; exact ⟨rfl, rfl⟩))

/-! ## The decoding of a line -/

/-- A line that decodes spells an admitted mnemonic of the ROM, in the mode of its operand. -/
theorem decodeLine_ok {p : Params} {mn : Text} {op : Option Text} {i : Instr} (h : decodeLine p mn op = .ok i) :
    mn = i.mnemonic.text ∧ i.mnemonic.admitted p = true ∧
      parseOperand p i.mnemonic (detectMode mn op) op = .ok i.operand := by
  unfold decodeLine at h
  split at h
  · cases h
  · rename_i m hm
    split at h
    · cases h
    · split at h
      · cases h
      · rename_i o ho
        split at h
        · rename_i j hj
          cases h
          obtain ⟨rfl, rfl⟩ := Instr.ofParts_some hj
          exact ⟨(Mnemonic.ofText_some hm).1.symm, (Mnemonic.ofText_some hm).2, ho⟩
        · cases h

/-- A line that decodes has a mnemonic with a row. -/
theorem decodeLine_ok_ofText {p : Params} {mn : Text} {op : Option Text} {i : Instr}
    (h : decodeLine p mn op = .ok i) : Mnemonic.ofText p mn = some i.mnemonic := by
  obtain ⟨hm, ha, _⟩ := decodeLine_ok h
  rw [hm]
  exact Mnemonic.ofText_text ha

/-- The instruction with given parts, from the text of its mnemonic and operand. -/
theorem decodeLine_of_parse {p : Params} {i : Instr} {op : Option Text} (ha : i.mnemonic.admitted p = true)
    (hm : detectMode i.mnemonic.text op = i.mode)
    (ho : parseOperand p i.mnemonic i.mode op = .ok i.operand) : decodeLine p i.mnemonic.text op = .ok i := by
  unfold decodeLine
  rw [Mnemonic.ofText_text ha]
  simp only [hm, i.parts_round_trip.2, ho, i.parts_round_trip.1]

end Sys2Proof
end

