-- ==== Sys2Proof/Laws/Assembler.lean ====
section
/-!
SUPPORT. What the assembler and the address map of Ops.lean can do: one lemma for each pass and check.
-/
namespace Sys2Proof.Machine

/-! ## Assembly as a whole -/

/-- A successful assembly passed both passes, ends with END and fits; it is those lines, labels and their image. -/
theorem assembleText_ok {p : Params} {text : Text} {asm : Assembled} (h : assembleText p text = .ok asm) :
    pass1 text = .ok (asm.stream, asm.labels) ∧ pass2From p asm.labels 0 asm.stream = .ok () ∧
      endsWithEnd asm.stream = true ∧ fitFrom p 0 Config.base asm.stream = .ok () ∧
      asm.image = emit p asm.stream asm.labels := by
  unfold assembleText at h
  split at h
  · cases h
  · rename_i lns labels h1
    unfold assembleLines at h
    split at h
    · cases h
    · rename_i h2
      split at h
      · rename_i h3
        split at h
        · cases h
        · rename_i h4
          cases h
          exact ⟨h1, h2, h3, h4, rfl⟩
      · cases h

/-! ## The address map -/

@[simp] theorem lineAddr_zero (p : Params) (stream : List Line) : lineAddr p stream 0 = Config.base := rfl

theorem lineAddr_succ {p : Params} {stream : List Line} {i : Nat} {ln : Line} (h : stream[i]? = some ln) :
    lineAddr p stream (i + 1) = lineAddr p stream i + lineSize p ln := by
  unfold lineAddr
  rw [List.take_add_one, h]
  simp [Nat.add_assoc]

theorem lineAddr_succ_of_none {p : Params} {stream : List Line} {i : Nat} (h : stream[i]? = none) :
    lineAddr p stream (i + 1) = lineAddr p stream i := by
  unfold lineAddr
  rw [List.take_add_one, h]
  simp

/-- Addresses never fall from line to line. -/
theorem lineAddr_mono {p : Params} {stream : List Line} {i j : Nat} (h : i ≤ j) :
    lineAddr p stream i ≤ lineAddr p stream j := by
  induction j, h using Nat.le_induction with
  | base => exact Nat.le_refl _
  | succ j _ ih =>
    cases hj : stream[j]? with
    | none => rw [lineAddr_succ_of_none hj]; exact ih
    | some ln => rw [lineAddr_succ hj]; omega

/-- The map over a list that begins with `pre`, just past `pre`. -/
theorem lineAddr_append (p : Params) (pre post : List Line) :
    lineAddr p (pre ++ post) pre.length = lineAddr p pre pre.length := by
  simp [lineAddr]

theorem lineAddr_concat (p : Params) (pre : List Line) (ln : Line) :
    lineAddr p (pre ++ [ln]) (pre.length + 1) = lineAddr p pre pre.length + lineSize p ln := by
  rw [lineAddr_succ (ln := ln) (by simp), lineAddr_append]

/-- A line has size 0 only if it is blank, does not decode, or is END. -/
theorem lineSize_pos {p : Params} {mn : Text} {op : Option Text} {i : Instr} (h : decodeLine p mn op = .ok i)
    (hi : i ≠ .endProgram) : 0 < lineSize p (.instr mn op) := by
  simp only [lineSize, h]
  exact Nat.pos_of_ne_zero (fun h0 => hi (Instr.size_eq_zero h0))

/-! ## The checks -/

/-- Pass 2 succeeds exactly when every line is valid. -/
theorem pass2From_ok {p : Params} {labels : LabelTable} {i : Nat} {lns : List Line} :
    pass2From p labels i lns = .ok () ↔ ∀ ln ∈ lns, validateLine p labels ln = .ok () := by
  induction lns generalizing i with
  | nil => simp [pass2From]
  | cons ln rest ih =>
    unfold pass2From
    split
    · rename_i k hk
      simp [hk]
    · rename_i hk
      rw [ih]
      simp [hk]

/-- A valid line decodes, and a label it names is in the table. -/
theorem validateLine_ok {p : Params} {labels : LabelTable} {mn : Text} {op : Option Text}
    (h : validateLine p labels (.instr mn op) = .ok ()) :
    ∃ i, decodeLine p mn op = .ok i ∧ ∀ l, i.label? = some l → ∃ t, labels.lookup l = some t := by
  unfold validateLine at h
  split at h
  · contradiction
  · rename_i heq
    cases heq
    split at h
    · cases h
    · rename_i i hi
      refine ⟨i, hi, fun l hl => ?_⟩
      rw [hl] at h
      simp only at h
      split at h
      · rename_i hs
        exact Option.isSome_iff_exists.mp hs
      · cases h

/-- The fit check succeeds exactly when every non-blank line fits. -/
theorem fitFrom_ok {p : Params} {pre lns : List Line} :
    fitFrom p pre.length (lineAddr p pre pre.length) lns = .ok () ↔
      ∀ k ln, lns[k]? = some ln → ln ≠ .blank →
        lineAddr p (pre ++ lns) (pre.length + k) + max (lineSize p ln) 1 - 1 ≤ p.programTop.toNat := by
  induction lns generalizing pre with
  | nil => simp [fitFrom]
  | cons ln rest ih =>
    have hih := ih (pre := pre ++ [ln])
    rw [List.length_append, List.length_singleton, lineAddr_concat] at hih
    unfold fitFrom
    split
    · rename_i hbad
      constructor
      · intro h; cases h
      · intro h
        have := h 0 ln rfl hbad.1
        rw [Nat.add_zero, lineAddr_append] at this
        omega
    · rename_i hgood
      rw [hih]
      constructor
      · intro h k ln' hk hb
        cases k with
        | zero =>
          cases hk
          rw [Nat.add_zero, lineAddr_append]
          by_contra hc
          exact hgood ⟨hb, by omega⟩
        | succ k =>
          have := h k ln' hk hb
          rwa [List.append_assoc, List.singleton_append, Nat.add_assoc, Nat.add_comm 1 k] at this
      · intro h k ln' hk hb
        have := h (k + 1) ln' hk hb
        rwa [List.append_assoc, List.singleton_append, Nat.add_assoc, Nat.add_comm 1 k]

/-- The END check: the lines end in a line with mnemonic END, and blank lines after it. -/
theorem endsWithEnd_iff (lns : List Line) :
    endsWithEnd lns = true ↔
      ∃ pre op post, lns = pre ++ .instr (Mnemonic.text .endProgram) op :: post ∧ ∀ ln ∈ post, ln = .blank := by
  induction lns using List.reverseRecOn with
  | nil => simp [endsWithEnd]
  | append_singleton lns ln ih =>
    by_cases hb : ln = .blank
    · subst hb
      have : endsWithEnd (lns ++ [.blank]) = endsWithEnd lns := by simp [endsWithEnd]
      rw [this, ih]
      constructor
      · rintro ⟨pre, op, post, rfl, hp⟩
        refine ⟨pre, op, post ++ [.blank], by simp, ?_⟩
        intro x hx
        rcases List.mem_append.mp hx with hx | hx
        · exact hp x hx
        · simpa using hx
      · rintro ⟨pre, op, post, h, hp⟩
        rcases List.eq_nil_or_concat post with rfl | ⟨post', x, rfl⟩
        · have := (List.append_inj' h rfl).2
          simp at this
        · rw [List.concat_eq_append, ← List.cons_append, ← List.append_assoc] at h
          refine ⟨pre, op, post', (List.append_inj' h rfl).1, fun y hy => hp y (by simp [hy])⟩
    · have : endsWithEnd (lns ++ [ln]) = true ↔ ∃ op, ln = .instr (Mnemonic.text .endProgram) op := by
        cases ln with
        | blank => exact absurd rfl hb
        | instr mn op => simp [endsWithEnd]
      rw [this]
      constructor
      · rintro ⟨op, rfl⟩
        exact ⟨lns, op, [], by simp, by simp⟩
      · rintro ⟨pre, op, post, h, hp⟩
        rcases List.eq_nil_or_concat post with rfl | ⟨post', x, rfl⟩
        · have := (List.append_inj' h rfl).2
          exact ⟨op, by simpa using this⟩
        · rw [List.concat_eq_append, ← List.cons_append, ← List.append_assoc] at h
          have := (List.append_inj' h rfl).2
          simp only [List.cons.injEq, and_true] at this
          exact absurd (this.trans (hp x (by simp))) hb

/-! ## Pass 1 -/

/-- Tokens are not empty. -/
theorem mem_tokensFrom {cur t tok : Text} (h : tok ∈ tokensFrom cur t) : tok ≠ [] := by
  induction t generalizing cur with
  | nil =>
    unfold tokensFrom at h
    split at h
    · cases h
    · rename_i hc
      rw [List.mem_singleton] at h
      simpa [h] using hc
  | cons c cs ih =>
    unfold tokensFrom at h
    split at h
    · split at h
      · exact ih h
      · rename_i hc
        rcases List.mem_cons.mp h with h | h
        · simpa [h] using hc
        · exact ih h
    · exact ih h

/-- A line made of tokens has a mnemonic and, if it has an operand, one that is not empty. -/
theorem lineOfTokens_tokens {t mn : Text} {op : Option Text} (h : lineOfTokens (tokens t) = some (.instr mn op)) :
    mn ≠ [] ∧ op ≠ some [] := by
  have hm : ∀ tok ∈ tokens t, tok ≠ [] := fun _ => mem_tokensFrom
  generalize tokens t = l at h hm
  match l, h with
  | [m], h =>
    simp only [lineOfTokens, Option.some.injEq, Line.instr.injEq] at h
    obtain ⟨rfl, rfl⟩ := h
    exact ⟨hm m (by simp), by simp⟩
  | [m, o], h =>
    simp only [lineOfTokens, Option.some.injEq, Line.instr.injEq] at h
    obtain ⟨rfl, rfl⟩ := h
    exact ⟨hm m (by simp), fun ho => hm o (by simp) (Option.some.inj ho)⟩

/-- Pass 1 gives one line for each source line, from its tokens; a label is in the table exactly when it was
there or a line declares it, and then it is bound to that line. -/
theorem pass1From_ok {i : Nat} {labels table : LabelTable} {raws : List Text} {lns : List Line}
    (h : pass1From i labels raws = .ok (lns, table)) :
    lns.length = raws.length ∧
    (∀ (k : Nat) (raw : Text), raws[k]? = some raw → lns[k]? = lineOfTokens (tokens (instrPart (normalise raw)))) ∧
    (∀ (l : Label) (t : Nat), table.lookup l = some t ↔ labels.lookup l = some t ∨
      ∃ (k : Nat) (raw : Text), raws[k]? = some raw ∧ labelPart (normalise raw) = some l ∧ t = i + k) := by
  induction raws generalizing i labels lns table with
  | nil =>
    cases h
    simp
  | cons raw rest ih =>
    unfold pass1From at h
    split at h
    · rename_i labels' ln hd hl
      split at h
      · rename_i lns' table' hrec
        cases h
        obtain ⟨h1, h2, h3⟩ := ih hrec
        refine ⟨by simp [h1], ?_, ?_⟩
        · intro k r hk
          cases k with
          | zero => cases hk; exact hl.symm
          | succ k => exact h2 k r hk
        · intro l t
          rw [h3]
          have hlook : labels'.lookup l = some t ↔ labels.lookup l = some t ∨
              (labelPart (normalise raw) = some l ∧ t = i) := by
            cases hp : labelPart (normalise raw) with
            | none => rw [hp] at hd; cases hd; simp
            | some l0 =>
              rw [hp] at hd
              unfold declare at hd
              simp only at hd
              split at hd
              · rename_i hok
                cases hd
                simp only [labelDeclares, Bool.and_eq_true, Option.isNone_iff_eq_none] at hok
                rw [List.lookup_append]
                cases hll : labels.lookup l with
                | some t' =>
                  simp only [Option.some_or, Option.some.injEq]
                  constructor
                  · exact .inl
                  · rintro (h | ⟨rfl, _⟩)
                    · exact h
                    · rw [hok.2] at hll; cases hll
                | none =>
                  by_cases hll0 : l = l0
                  · subst hll0
                    simp [List.lookup, eq_comm]
                  · have : (l == l0) = false := by simpa using hll0
                    simp [List.lookup, this, Ne.symm hll0]
              · cases hd
          rw [hlook]
          constructor
          · rintro ((h | ⟨hp, rfl⟩) | ⟨k, r, hk, hp, rfl⟩)
            · exact .inl h
            · exact .inr ⟨0, raw, rfl, hp, rfl⟩
            · exact .inr ⟨k + 1, r, hk, hp, by omega⟩
          · rintro (h | ⟨k, r, hk, hp, rfl⟩)
            · exact .inl (.inl h)
            · cases k with
              | zero => cases hk; exact .inl (.inr ⟨hp, rfl⟩)
              | succ k => exact .inr ⟨k, r, hk, hp, by omega⟩
      · cases h
    · cases h

/-- Pass 1 gives one line for each source line. -/
theorem pass1_length {text : Text} {lns : List Line} {labels : LabelTable} (h : pass1 text = .ok (lns, labels)) :
    lns.length = (splitLines text).length :=
  (pass1From_ok h).1

/-- A line of pass 1 has a mnemonic and no empty operand. -/
theorem pass1_mem {text mn : Text} {op : Option Text} {lns : List Line} {labels : LabelTable}
    (h : pass1 text = .ok (lns, labels)) (hm : .instr mn op ∈ lns) : mn ≠ [] ∧ op ≠ some [] := by
  obtain ⟨h1, h2, _⟩ := pass1From_ok h
  obtain ⟨k, hk, hk'⟩ := List.getElem_of_mem hm
  have hr : k < (splitLines text).length := by omega
  have := h2 k _ (List.getElem?_eq_getElem hr)
  rw [List.getElem?_eq_getElem hk, hk'] at this
  exact lineOfTokens_tokens this.symm

/-- A label of the table is bound to a line. -/
theorem pass1_lookup_lt {text : Text} {lns : List Line} {labels : LabelTable} {l : Label} {t : Nat}
    (h : pass1 text = .ok (lns, labels)) (hl : labels.lookup l = some t) : t < lns.length := by
  obtain ⟨h1, _, h3⟩ := pass1From_ok h
  rcases (h3 l t).mp hl with h | ⟨k, raw, hk, _, rfl⟩
  · cases h
  · have := (List.getElem?_eq_some_iff.mp hk).1
    omega

/-! ## Emission and the return scan -/

/-- Bytes placed from an address on stand at consecutive addresses, and nowhere else. -/
theorem cellAt_placeBytes (at_ : Nat) (bs : List Byte) (a : Nat) :
    cellAt a (placeBytes at_ bs) = if at_ ≤ a then bs[a - at_]? else none := by
  induction bs generalizing at_ with
  | nil => simp [placeBytes, cellAt]
  | cons b bs ih =>
    simp only [placeBytes, cellAt, ih]
    by_cases h : a = at_
    · subst h; simp
    · rw [if_neg h]
      by_cases h2 : at_ ≤ a
      · have : at_ + 1 ≤ a := by omega
        rw [if_pos h2, if_pos this]
        obtain ⟨k, rfl⟩ := Nat.exists_eq_add_of_le this
        have e : at_ + 1 + k - at_ = k + 1 := by omega
        simp [e]
      · rw [if_neg h2, if_neg (by omega)]

/-- The return scan finds the least line with an address. -/
theorem State.lineAt?_eq_some {s : State} {a : Word} {j : Nat} (h : s.lineAt? a = some j) :
    j < s.stream.length ∧ s.addr j = a.toNat ∧ ∀ k, k < j → s.addr k ≠ a.toNat := by
  unfold State.lineAt? at h
  rw [List.find?_range_eq_some] at h
  obtain ⟨h1, h2, h3⟩ := h
  refine ⟨by simpa using h2, by simpa using h1, fun k hk => by simpa using h3 k hk⟩

/-- The return scan fails only if no line has the address. -/
theorem State.lineAt?_eq_none {s : State} {a : Word} (h : s.lineAt? a = none) (j : Nat) (hj : j < s.stream.length) :
    s.addr j ≠ a.toNat := by
  unfold State.lineAt? at h
  simpa using List.find?_eq_none.mp h j (by simpa using hj)

end Sys2Proof.Machine
end

