-- ==== Sys2Proof/Laws/Memory.lean ====
section
/-!
SUPPORT. The two stores: reads after writes, and every write keeps the canonical form.
-/
namespace Sys2Proof.Machine

/-! ### Cells -/

theorem cellAt_insertCell_same (k : Nat) (b : Byte) (m : List Host.Cell) :
    cellAt k (insertCell k b m) = some b := by
  induction m with
  | nil => simp [insertCell, cellAt]
  | cons e m ih =>
    obtain ⟨k', b'⟩ := e
    simp only [insertCell]
    split
    · simp [cellAt]
    · split
      · simp [cellAt]
      · rename_i h1 h2
        simp [cellAt, h2, ih]

theorem cellAt_insertCell_other (k j : Nat) (b : Byte) (m : List Host.Cell) (h : j ≠ k) :
    cellAt j (insertCell k b m) = cellAt j m := by
  induction m with
  | nil => simp [insertCell, cellAt, h]
  | cons e m ih =>
    obtain ⟨k', b'⟩ := e
    simp only [insertCell]
    split
    · simp [cellAt, h]
    · split
      · rename_i h1 h2
        subst h2
        simp [cellAt, h]
      · simp [cellAt, ih]

theorem cellAt_eraseCell_other (k j : Nat) (m : List Host.Cell) (h : j ≠ k) :
    cellAt j (eraseCell k m) = cellAt j m := by
  induction m with
  | nil => rfl
  | cons e m ih =>
    obtain ⟨k', b'⟩ := e
    simp only [eraseCell]
    split
    · rename_i h'
      subst h'
      simp [cellAt, h]
    · simp [cellAt, ih]

/-- Rising addresses, as an order on the whole list and a bound on each entry. -/
theorem cellsRising_iff (m : List Host.Cell) :
    cellsRising m = true ↔ m.Pairwise (fun e e' => e.1 < e'.1) ∧ ∀ e ∈ m, e.1 < 0x10000 := by
  induction m with
  | nil => simp [cellsRising]
  | cons e m ih =>
    obtain ⟨k, b⟩ := e
    cases m with
    | nil => simp [cellsRising]
    | cons e' m =>
      obtain ⟨k', b'⟩ := e'
      simp only [cellsRising, Bool.and_eq_true, decide_eq_true_eq, ih]
      constructor
      · rintro ⟨hlt, hp, hb⟩
        refine ⟨?_, ?_⟩
        · rw [List.pairwise_cons]
          refine ⟨?_, hp⟩
          intro e he
          rcases List.mem_cons.mp he with rfl | he
          · exact hlt
          · exact lt_trans hlt ((List.pairwise_cons.mp hp).1 e he)
        · intro e he
          rcases List.mem_cons.mp he with rfl | he
          · exact lt_trans hlt (hb (k', b') (by simp))
          · exact hb e he
      · rintro ⟨hp, hb⟩
        have hp' := List.pairwise_cons.mp hp
        exact ⟨hp'.1 (k', b') (by simp), hp'.2, fun e he => hb e (by simp [he])⟩

theorem mem_insertCell (k : Nat) (b : Byte) (m : List Host.Cell) (e : Host.Cell) (h : e ∈ insertCell k b m) :
    e = (k, b) ∨ e ∈ m := by
  induction m with
  | nil => simpa [insertCell] using h
  | cons e' m ih =>
    obtain ⟨k', b'⟩ := e'
    simp only [insertCell] at h
    split at h
    · simpa using h
    · split at h
      · rcases List.mem_cons.mp h with h | h
        · exact .inl h
        · exact .inr (by simp [h])
      · rcases List.mem_cons.mp h with h | h
        · exact .inr (by simp [h])
        · rcases ih h with h | h
          · exact .inl h
          · exact .inr (by simp [h])

theorem mem_eraseCell (k : Nat) (m : List Host.Cell) (e : Host.Cell) (h : e ∈ eraseCell k m) : e ∈ m := by
  induction m with
  | nil => exact h
  | cons e' m ih =>
    obtain ⟨k', b'⟩ := e'
    simp only [eraseCell] at h
    split at h
    · simp [h]
    · rcases List.mem_cons.mp h with h | h
      · simp [h]
      · simp [ih h]

theorem pairwise_insertCell (k : Nat) (b : Byte) (m : List Host.Cell)
    (h : m.Pairwise (fun e e' => e.1 < e'.1)) : (insertCell k b m).Pairwise (fun e e' => e.1 < e'.1) := by
  induction m with
  | nil => simp [insertCell]
  | cons e m ih =>
    obtain ⟨k', b'⟩ := e
    have hc := List.pairwise_cons.mp h
    simp only [insertCell]
    split
    · rename_i hlt
      rw [List.pairwise_cons]
      refine ⟨?_, h⟩
      intro e he
      rcases List.mem_cons.mp he with rfl | he
      · exact hlt
      · exact lt_trans hlt (hc.1 e he)
    · split
      · rename_i h2
        subst h2
        exact List.pairwise_cons.mpr ⟨hc.1, hc.2⟩
      · rename_i h1 h2
        rw [List.pairwise_cons]
        refine ⟨?_, ih hc.2⟩
        intro e he
        rcases mem_insertCell k b m e he with rfl | he
        · show k' < k
          omega
        · exact hc.1 e he

theorem pairwise_eraseCell (k : Nat) (m : List Host.Cell) (h : m.Pairwise (fun e e' => e.1 < e'.1)) :
    (eraseCell k m).Pairwise (fun e e' => e.1 < e'.1) := by
  induction m with
  | nil => exact h
  | cons e m ih =>
    obtain ⟨k', b'⟩ := e
    have hc := List.pairwise_cons.mp h
    simp only [eraseCell]
    split
    · exact hc.2
    · exact List.pairwise_cons.mpr ⟨fun e he => hc.1 e (mem_eraseCell k m e he), ih hc.2⟩

theorem cellAt_none_of_lt (k : Nat) (m : List Host.Cell) (h : ∀ e ∈ m, k < e.1) : cellAt k m = none := by
  induction m with
  | nil => rfl
  | cons e m ih =>
    obtain ⟨k', b'⟩ := e
    have h1 : k < k' := h (k', b') (by simp)
    simp only [cellAt]
    rw [if_neg (by omega)]
    exact ih (fun e he => h e (by simp [he]))

theorem cellAt_eraseCell_same (k : Nat) (m : List Host.Cell) (h : m.Pairwise (fun e e' => e.1 < e'.1)) :
    cellAt k (eraseCell k m) = none := by
  induction m with
  | nil => rfl
  | cons e m ih =>
    obtain ⟨k', b'⟩ := e
    have hc := List.pairwise_cons.mp h
    simp only [eraseCell]
    split
    · rename_i h'
      subst h'
      exact cellAt_none_of_lt k m hc.1
    · rename_i h'
      simp only [cellAt, if_neg h']
      exact ih hc.2

/-! ### The data store -/

theorem Memory.wf_iff (m : Memory) :
    m.wf = true ↔ m.Pairwise (fun e e' => e.1 < e'.1) ∧ (∀ e ∈ m, e.1 < 0x10000) ∧ ∀ e ∈ m, e.2 ≠ 0 := by
  unfold Memory.wf
  rw [Bool.and_eq_true, cellsRising_iff, and_assoc]
  simp

/-- A write leaves every other address alone. -/
theorem Memory.read_write_other (m : Memory) (a a' : Word) (b : Byte) (h : a' ≠ a) :
    (m.write a b).read a' = m.read a' := by
  have hn : a'.toNat ≠ a.toNat := fun he => h (BitVec.eq_of_toNat_eq he)
  unfold Memory.write Memory.read
  split
  · rw [cellAt_eraseCell_other _ _ _ hn]
  · rw [cellAt_insertCell_other _ _ _ _ hn]

/-- A byte read where it was just written is the byte written. -/
theorem Memory.read_write_same (m : Memory) (a : Word) (b : Byte) (h : m.wf = true) :
    (m.write a b).read a = b := by
  unfold Memory.write Memory.read
  split
  · rename_i hb
    rw [cellAt_eraseCell_same _ _ ((Memory.wf_iff m).mp h).1, hb]
    rfl
  · rw [cellAt_insertCell_same]
    rfl

/-- A write keeps the canonical form. -/
theorem Memory.wf_write (m : Memory) (a : Word) (b : Byte) (h : m.wf = true) : (m.write a b).wf = true := by
  rw [Memory.wf_iff] at h ⊢
  obtain ⟨hp, hk, hv⟩ := h
  unfold Memory.write
  split
  · exact ⟨pairwise_eraseCell _ _ hp, fun e he => hk e (mem_eraseCell _ _ e he),
      fun e he => hv e (mem_eraseCell _ _ e he)⟩
  · rename_i hb
    refine ⟨pairwise_insertCell _ _ _ hp, fun e he => ?_, fun e he => ?_⟩
    · rcases mem_insertCell _ _ _ e he with rfl | he
      · exact a.isLt
      · exact hk e he
    · rcases mem_insertCell _ _ _ e he with rfl | he
      · exact hb
      · exact hv e he

theorem Memory.wf_write16 (m : Memory) (a v : Word) (h : m.wf = true) : (m.write16 a v).wf = true :=
  Memory.wf_write _ _ _ (Memory.wf_write _ _ _ h)

theorem Memory.wf_nil : Memory.wf [] = true := rfl

/-! ### Words -/

@[simp] theorem joinBytes_hi_lo (w : Word) : joinBytes (hiByte w) (loByte w) = w := by
  unfold joinBytes hiByte loByte
  exact BitVec.extractLsb'_append_extractLsb'_eq_extractLsb' (by decide) |>.trans (by simp)

@[simp] theorem hiByte_joinBytes (h l : Byte) : hiByte (joinBytes h l) = h := by
  unfold joinBytes hiByte
  exact BitVec.extractLsb'_append_eq_left

@[simp] theorem loByte_joinBytes (h l : Byte) : loByte (joinBytes h l) = l := by
  unfold joinBytes loByte
  exact BitVec.extractLsb'_append_eq_right

theorem succ_ne (a : Word) : a + 1 ≠ a := by
  intro h
  have := congrArg BitVec.toNat h
  rw [BitVec.toNat_add] at this
  have ha := a.isLt
  simp at this
  omega

end Sys2Proof.Machine
end

