-- ==== Sys2Proof/Laws/State.lean ====
section
/-!
SUPPORT. One lemma for each field of the state under each update of it, and what the register accessors read back.
-/
namespace Sys2Proof.Machine

variable (st : State)

/-! ### setAcc -/

@[simp] theorem State.setAcc_dp (r : Acc) (w : Byte) : (st.setAcc r w).dp = st.dp := by cases r <;> rfl
@[simp] theorem State.setAcc_x (r : Acc) (w : Byte) : (st.setAcc r w).x = st.x := by cases r <;> rfl
@[simp] theorem State.setAcc_y (r : Acc) (w : Byte) : (st.setAcc r w).y = st.y := by cases r <;> rfl
@[simp] theorem State.setAcc_u (r : Acc) (w : Byte) : (st.setAcc r w).u = st.u := by cases r <;> rfl
@[simp] theorem State.setAcc_s (r : Acc) (w : Byte) : (st.setAcc r w).s = st.s := by cases r <;> rfl
@[simp] theorem State.setAcc_pc (r : Acc) (w : Byte) : (st.setAcc r w).pc = st.pc := by cases r <;> rfl
@[simp] theorem State.setAcc_n (r : Acc) (w : Byte) : (st.setAcc r w).n = st.n := by cases r <;> rfl
@[simp] theorem State.setAcc_z (r : Acc) (w : Byte) : (st.setAcc r w).z = st.z := by cases r <;> rfl
@[simp] theorem State.setAcc_v (r : Acc) (w : Byte) : (st.setAcc r w).v = st.v := by cases r <;> rfl
@[simp] theorem State.setAcc_c (r : Acc) (w : Byte) : (st.setAcc r w).c = st.c := by cases r <;> rfl
@[simp] theorem State.setAcc_h (r : Acc) (w : Byte) : (st.setAcc r w).h = st.h := by cases r <;> rfl
@[simp] theorem State.setAcc_line (r : Acc) (w : Byte) : (st.setAcc r w).line = st.line := by cases r <;> rfl
@[simp] theorem State.setAcc_callStack (r : Acc) (w : Byte) : (st.setAcc r w).callStack = st.callStack := by cases r <;> rfl
@[simp] theorem State.setAcc_status (r : Acc) (w : Byte) : (st.setAcc r w).status = st.status := by cases r <;> rfl
@[simp] theorem State.setAcc_lastError (r : Acc) (w : Byte) : (st.setAcc r w).lastError = st.lastError := by cases r <;> rfl
@[simp] theorem State.setAcc_labels (r : Acc) (w : Byte) : (st.setAcc r w).labels = st.labels := by cases r <;> rfl
@[simp] theorem State.setAcc_stream (r : Acc) (w : Byte) : (st.setAcc r w).stream = st.stream := by cases r <;> rfl
@[simp] theorem State.setAcc_progStore (r : Acc) (w : Byte) : (st.setAcc r w).progStore = st.progStore := by cases r <;> rfl
@[simp] theorem State.setAcc_dataStore (r : Acc) (w : Byte) : (st.setAcc r w).dataStore = st.dataStore := by cases r <;> rfl
@[simp] theorem State.setAcc_text (r : Acc) (w : Byte) : (st.setAcc r w).text = st.text := by cases r <;> rfl
@[simp] theorem State.setAcc_params (r : Acc) (w : Byte) : (st.setAcc r w).params = st.params := by cases r <;> rfl
@[simp] theorem State.setAcc_draws (r : Acc) (w : Byte) : (st.setAcc r w).draws = st.draws := by cases r <;> rfl

/-! ### setIdx -/

@[simp] theorem State.setIdx_a (r : IdxReg) (w : Word) : (st.setIdx r w).a = st.a := by cases r <;> rfl
@[simp] theorem State.setIdx_b (r : IdxReg) (w : Word) : (st.setIdx r w).b = st.b := by cases r <;> rfl
@[simp] theorem State.setIdx_dp (r : IdxReg) (w : Word) : (st.setIdx r w).dp = st.dp := by cases r <;> rfl
@[simp] theorem State.setIdx_pc (r : IdxReg) (w : Word) : (st.setIdx r w).pc = st.pc := by cases r <;> rfl
@[simp] theorem State.setIdx_n (r : IdxReg) (w : Word) : (st.setIdx r w).n = st.n := by cases r <;> rfl
@[simp] theorem State.setIdx_z (r : IdxReg) (w : Word) : (st.setIdx r w).z = st.z := by cases r <;> rfl
@[simp] theorem State.setIdx_v (r : IdxReg) (w : Word) : (st.setIdx r w).v = st.v := by cases r <;> rfl
@[simp] theorem State.setIdx_c (r : IdxReg) (w : Word) : (st.setIdx r w).c = st.c := by cases r <;> rfl
@[simp] theorem State.setIdx_h (r : IdxReg) (w : Word) : (st.setIdx r w).h = st.h := by cases r <;> rfl
@[simp] theorem State.setIdx_line (r : IdxReg) (w : Word) : (st.setIdx r w).line = st.line := by cases r <;> rfl
@[simp] theorem State.setIdx_callStack (r : IdxReg) (w : Word) : (st.setIdx r w).callStack = st.callStack := by cases r <;> rfl
@[simp] theorem State.setIdx_status (r : IdxReg) (w : Word) : (st.setIdx r w).status = st.status := by cases r <;> rfl
@[simp] theorem State.setIdx_lastError (r : IdxReg) (w : Word) : (st.setIdx r w).lastError = st.lastError := by cases r <;> rfl
@[simp] theorem State.setIdx_labels (r : IdxReg) (w : Word) : (st.setIdx r w).labels = st.labels := by cases r <;> rfl
@[simp] theorem State.setIdx_stream (r : IdxReg) (w : Word) : (st.setIdx r w).stream = st.stream := by cases r <;> rfl
@[simp] theorem State.setIdx_progStore (r : IdxReg) (w : Word) : (st.setIdx r w).progStore = st.progStore := by cases r <;> rfl
@[simp] theorem State.setIdx_dataStore (r : IdxReg) (w : Word) : (st.setIdx r w).dataStore = st.dataStore := by cases r <;> rfl
@[simp] theorem State.setIdx_text (r : IdxReg) (w : Word) : (st.setIdx r w).text = st.text := by cases r <;> rfl
@[simp] theorem State.setIdx_params (r : IdxReg) (w : Word) : (st.setIdx r w).params = st.params := by cases r <;> rfl
@[simp] theorem State.setIdx_draws (r : IdxReg) (w : Word) : (st.setIdx r w).draws = st.draws := by cases r <;> rfl

/-! ### setPairReg -/

@[simp] theorem State.setPairReg_dp (r : PairReg) (w : Word) : (st.setPairReg r w).dp = st.dp := by cases r <;> rfl
@[simp] theorem State.setPairReg_pc (r : PairReg) (w : Word) : (st.setPairReg r w).pc = st.pc := by cases r <;> rfl
@[simp] theorem State.setPairReg_n (r : PairReg) (w : Word) : (st.setPairReg r w).n = st.n := by cases r <;> rfl
@[simp] theorem State.setPairReg_z (r : PairReg) (w : Word) : (st.setPairReg r w).z = st.z := by cases r <;> rfl
@[simp] theorem State.setPairReg_v (r : PairReg) (w : Word) : (st.setPairReg r w).v = st.v := by cases r <;> rfl
@[simp] theorem State.setPairReg_c (r : PairReg) (w : Word) : (st.setPairReg r w).c = st.c := by cases r <;> rfl
@[simp] theorem State.setPairReg_h (r : PairReg) (w : Word) : (st.setPairReg r w).h = st.h := by cases r <;> rfl
@[simp] theorem State.setPairReg_line (r : PairReg) (w : Word) : (st.setPairReg r w).line = st.line := by cases r <;> rfl
@[simp] theorem State.setPairReg_callStack (r : PairReg) (w : Word) : (st.setPairReg r w).callStack = st.callStack := by cases r <;> rfl
@[simp] theorem State.setPairReg_status (r : PairReg) (w : Word) : (st.setPairReg r w).status = st.status := by cases r <;> rfl
@[simp] theorem State.setPairReg_lastError (r : PairReg) (w : Word) : (st.setPairReg r w).lastError = st.lastError := by cases r <;> rfl
@[simp] theorem State.setPairReg_labels (r : PairReg) (w : Word) : (st.setPairReg r w).labels = st.labels := by cases r <;> rfl
@[simp] theorem State.setPairReg_stream (r : PairReg) (w : Word) : (st.setPairReg r w).stream = st.stream := by cases r <;> rfl
@[simp] theorem State.setPairReg_progStore (r : PairReg) (w : Word) : (st.setPairReg r w).progStore = st.progStore := by cases r <;> rfl
@[simp] theorem State.setPairReg_dataStore (r : PairReg) (w : Word) : (st.setPairReg r w).dataStore = st.dataStore := by cases r <;> rfl
@[simp] theorem State.setPairReg_text (r : PairReg) (w : Word) : (st.setPairReg r w).text = st.text := by cases r <;> rfl
@[simp] theorem State.setPairReg_params (r : PairReg) (w : Word) : (st.setPairReg r w).params = st.params := by cases r <;> rfl
@[simp] theorem State.setPairReg_draws (r : PairReg) (w : Word) : (st.setPairReg r w).draws = st.draws := by cases r <;> rfl

/-! ### setZN -/

@[simp] theorem State.setZN_a (w : Byte) : (st.setZN w).a = st.a := rfl
@[simp] theorem State.setZN_b (w : Byte) : (st.setZN w).b = st.b := rfl
@[simp] theorem State.setZN_dp (w : Byte) : (st.setZN w).dp = st.dp := rfl
@[simp] theorem State.setZN_x (w : Byte) : (st.setZN w).x = st.x := rfl
@[simp] theorem State.setZN_y (w : Byte) : (st.setZN w).y = st.y := rfl
@[simp] theorem State.setZN_u (w : Byte) : (st.setZN w).u = st.u := rfl
@[simp] theorem State.setZN_s (w : Byte) : (st.setZN w).s = st.s := rfl
@[simp] theorem State.setZN_pc (w : Byte) : (st.setZN w).pc = st.pc := rfl
@[simp] theorem State.setZN_n (w : Byte) : (st.setZN w).n = w.getLsbD 7 := rfl
@[simp] theorem State.setZN_z (w : Byte) : (st.setZN w).z = (w == 0) := rfl
@[simp] theorem State.setZN_v (w : Byte) : (st.setZN w).v = st.v := rfl
@[simp] theorem State.setZN_c (w : Byte) : (st.setZN w).c = st.c := rfl
@[simp] theorem State.setZN_h (w : Byte) : (st.setZN w).h = st.h := rfl
@[simp] theorem State.setZN_line (w : Byte) : (st.setZN w).line = st.line := rfl
@[simp] theorem State.setZN_callStack (w : Byte) : (st.setZN w).callStack = st.callStack := rfl
@[simp] theorem State.setZN_status (w : Byte) : (st.setZN w).status = st.status := rfl
@[simp] theorem State.setZN_lastError (w : Byte) : (st.setZN w).lastError = st.lastError := rfl
@[simp] theorem State.setZN_labels (w : Byte) : (st.setZN w).labels = st.labels := rfl
@[simp] theorem State.setZN_stream (w : Byte) : (st.setZN w).stream = st.stream := rfl
@[simp] theorem State.setZN_progStore (w : Byte) : (st.setZN w).progStore = st.progStore := rfl
@[simp] theorem State.setZN_dataStore (w : Byte) : (st.setZN w).dataStore = st.dataStore := rfl
@[simp] theorem State.setZN_text (w : Byte) : (st.setZN w).text = st.text := rfl
@[simp] theorem State.setZN_params (w : Byte) : (st.setZN w).params = st.params := rfl
@[simp] theorem State.setZN_draws (w : Byte) : (st.setZN w).draws = st.draws := rfl

/-! ### setNZVC -/

@[simp] theorem State.setNZVC_a (o : AluOut) : (st.setNZVC o).a = st.a := rfl
@[simp] theorem State.setNZVC_b (o : AluOut) : (st.setNZVC o).b = st.b := rfl
@[simp] theorem State.setNZVC_dp (o : AluOut) : (st.setNZVC o).dp = st.dp := rfl
@[simp] theorem State.setNZVC_x (o : AluOut) : (st.setNZVC o).x = st.x := rfl
@[simp] theorem State.setNZVC_y (o : AluOut) : (st.setNZVC o).y = st.y := rfl
@[simp] theorem State.setNZVC_u (o : AluOut) : (st.setNZVC o).u = st.u := rfl
@[simp] theorem State.setNZVC_s (o : AluOut) : (st.setNZVC o).s = st.s := rfl
@[simp] theorem State.setNZVC_pc (o : AluOut) : (st.setNZVC o).pc = st.pc := rfl
@[simp] theorem State.setNZVC_n (o : AluOut) : (st.setNZVC o).n = o.n := rfl
@[simp] theorem State.setNZVC_z (o : AluOut) : (st.setNZVC o).z = o.z := rfl
@[simp] theorem State.setNZVC_v (o : AluOut) : (st.setNZVC o).v = o.v := rfl
@[simp] theorem State.setNZVC_c (o : AluOut) : (st.setNZVC o).c = o.c := rfl
@[simp] theorem State.setNZVC_h (o : AluOut) : (st.setNZVC o).h = st.h := rfl
@[simp] theorem State.setNZVC_line (o : AluOut) : (st.setNZVC o).line = st.line := rfl
@[simp] theorem State.setNZVC_callStack (o : AluOut) : (st.setNZVC o).callStack = st.callStack := rfl
@[simp] theorem State.setNZVC_status (o : AluOut) : (st.setNZVC o).status = st.status := rfl
@[simp] theorem State.setNZVC_lastError (o : AluOut) : (st.setNZVC o).lastError = st.lastError := rfl
@[simp] theorem State.setNZVC_labels (o : AluOut) : (st.setNZVC o).labels = st.labels := rfl
@[simp] theorem State.setNZVC_stream (o : AluOut) : (st.setNZVC o).stream = st.stream := rfl
@[simp] theorem State.setNZVC_progStore (o : AluOut) : (st.setNZVC o).progStore = st.progStore := rfl
@[simp] theorem State.setNZVC_dataStore (o : AluOut) : (st.setNZVC o).dataStore = st.dataStore := rfl
@[simp] theorem State.setNZVC_text (o : AluOut) : (st.setNZVC o).text = st.text := rfl
@[simp] theorem State.setNZVC_params (o : AluOut) : (st.setNZVC o).params = st.params := rfl
@[simp] theorem State.setNZVC_draws (o : AluOut) : (st.setNZVC o).draws = st.draws := rfl

/-! ### setZN16 -/

@[simp] theorem State.setZN16_a (w : Word) : (st.setZN16 w).a = st.a := rfl
@[simp] theorem State.setZN16_b (w : Word) : (st.setZN16 w).b = st.b := rfl
@[simp] theorem State.setZN16_dp (w : Word) : (st.setZN16 w).dp = st.dp := rfl
@[simp] theorem State.setZN16_x (w : Word) : (st.setZN16 w).x = st.x := rfl
@[simp] theorem State.setZN16_y (w : Word) : (st.setZN16 w).y = st.y := rfl
@[simp] theorem State.setZN16_u (w : Word) : (st.setZN16 w).u = st.u := rfl
@[simp] theorem State.setZN16_s (w : Word) : (st.setZN16 w).s = st.s := rfl
@[simp] theorem State.setZN16_pc (w : Word) : (st.setZN16 w).pc = st.pc := rfl
@[simp] theorem State.setZN16_n (w : Word) : (st.setZN16 w).n = signBit16 st.params.load16NBit w := rfl
@[simp] theorem State.setZN16_z (w : Word) : (st.setZN16 w).z = (w == 0) := rfl
@[simp] theorem State.setZN16_v (w : Word) : (st.setZN16 w).v = st.v := rfl
@[simp] theorem State.setZN16_c (w : Word) : (st.setZN16 w).c = st.c := rfl
@[simp] theorem State.setZN16_h (w : Word) : (st.setZN16 w).h = st.h := rfl
@[simp] theorem State.setZN16_line (w : Word) : (st.setZN16 w).line = st.line := rfl
@[simp] theorem State.setZN16_callStack (w : Word) : (st.setZN16 w).callStack = st.callStack := rfl
@[simp] theorem State.setZN16_status (w : Word) : (st.setZN16 w).status = st.status := rfl
@[simp] theorem State.setZN16_lastError (w : Word) : (st.setZN16 w).lastError = st.lastError := rfl
@[simp] theorem State.setZN16_labels (w : Word) : (st.setZN16 w).labels = st.labels := rfl
@[simp] theorem State.setZN16_stream (w : Word) : (st.setZN16 w).stream = st.stream := rfl
@[simp] theorem State.setZN16_progStore (w : Word) : (st.setZN16 w).progStore = st.progStore := rfl
@[simp] theorem State.setZN16_dataStore (w : Word) : (st.setZN16 w).dataStore = st.dataStore := rfl
@[simp] theorem State.setZN16_text (w : Word) : (st.setZN16 w).text = st.text := rfl
@[simp] theorem State.setZN16_params (w : Word) : (st.setZN16 w).params = st.params := rfl
@[simp] theorem State.setZN16_draws (w : Word) : (st.setZN16 w).draws = st.draws := rfl

/-! ### setHOnAdd -/

@[simp] theorem State.setHOnAdd_a : (st.setHOnAdd).a = st.a := by unfold State.setHOnAdd; split <;> rfl
@[simp] theorem State.setHOnAdd_b : (st.setHOnAdd).b = st.b := by unfold State.setHOnAdd; split <;> rfl
@[simp] theorem State.setHOnAdd_dp : (st.setHOnAdd).dp = st.dp := by unfold State.setHOnAdd; split <;> rfl
@[simp] theorem State.setHOnAdd_x : (st.setHOnAdd).x = st.x := by unfold State.setHOnAdd; split <;> rfl
@[simp] theorem State.setHOnAdd_y : (st.setHOnAdd).y = st.y := by unfold State.setHOnAdd; split <;> rfl
@[simp] theorem State.setHOnAdd_u : (st.setHOnAdd).u = st.u := by unfold State.setHOnAdd; split <;> rfl
@[simp] theorem State.setHOnAdd_s : (st.setHOnAdd).s = st.s := by unfold State.setHOnAdd; split <;> rfl
@[simp] theorem State.setHOnAdd_pc : (st.setHOnAdd).pc = st.pc := by unfold State.setHOnAdd; split <;> rfl
@[simp] theorem State.setHOnAdd_n : (st.setHOnAdd).n = st.n := by unfold State.setHOnAdd; split <;> rfl
@[simp] theorem State.setHOnAdd_z : (st.setHOnAdd).z = st.z := by unfold State.setHOnAdd; split <;> rfl
@[simp] theorem State.setHOnAdd_v : (st.setHOnAdd).v = st.v := by unfold State.setHOnAdd; split <;> rfl
@[simp] theorem State.setHOnAdd_c : (st.setHOnAdd).c = st.c := by unfold State.setHOnAdd; split <;> rfl
@[simp] theorem State.setHOnAdd_line : (st.setHOnAdd).line = st.line := by unfold State.setHOnAdd; split <;> rfl
@[simp] theorem State.setHOnAdd_callStack : (st.setHOnAdd).callStack = st.callStack := by unfold State.setHOnAdd; split <;> rfl
@[simp] theorem State.setHOnAdd_status : (st.setHOnAdd).status = st.status := by unfold State.setHOnAdd; split <;> rfl
@[simp] theorem State.setHOnAdd_lastError : (st.setHOnAdd).lastError = st.lastError := by unfold State.setHOnAdd; split <;> rfl
@[simp] theorem State.setHOnAdd_labels : (st.setHOnAdd).labels = st.labels := by unfold State.setHOnAdd; split <;> rfl
@[simp] theorem State.setHOnAdd_stream : (st.setHOnAdd).stream = st.stream := by unfold State.setHOnAdd; split <;> rfl
@[simp] theorem State.setHOnAdd_progStore : (st.setHOnAdd).progStore = st.progStore := by unfold State.setHOnAdd; split <;> rfl
@[simp] theorem State.setHOnAdd_dataStore : (st.setHOnAdd).dataStore = st.dataStore := by unfold State.setHOnAdd; split <;> rfl
@[simp] theorem State.setHOnAdd_text : (st.setHOnAdd).text = st.text := by unfold State.setHOnAdd; split <;> rfl
@[simp] theorem State.setHOnAdd_params : (st.setHOnAdd).params = st.params := by unfold State.setHOnAdd; split <;> rfl

/-! ### begin -/

@[simp] theorem State.begin_a : (st.begin).a = st.a := rfl
@[simp] theorem State.begin_b : (st.begin).b = st.b := rfl
@[simp] theorem State.begin_dp : (st.begin).dp = st.dp := rfl
@[simp] theorem State.begin_x : (st.begin).x = st.x := rfl
@[simp] theorem State.begin_y : (st.begin).y = st.y := rfl
@[simp] theorem State.begin_u : (st.begin).u = st.u := rfl
@[simp] theorem State.begin_s : (st.begin).s = st.s := rfl
@[simp] theorem State.begin_pc : (st.begin).pc = st.pc := rfl
@[simp] theorem State.begin_n : (st.begin).n = st.n := rfl
@[simp] theorem State.begin_z : (st.begin).z = st.z := rfl
@[simp] theorem State.begin_v : (st.begin).v = st.v := rfl
@[simp] theorem State.begin_c : (st.begin).c = st.c := rfl
@[simp] theorem State.begin_h : (st.begin).h = st.h := rfl
@[simp] theorem State.begin_line : (st.begin).line = st.line := rfl
@[simp] theorem State.begin_callStack : (st.begin).callStack = st.callStack := rfl
@[simp] theorem State.begin_status : (st.begin).status = .running := rfl
@[simp] theorem State.begin_lastError : (st.begin).lastError = st.lastError := rfl
@[simp] theorem State.begin_labels : (st.begin).labels = st.labels := rfl
@[simp] theorem State.begin_stream : (st.begin).stream = st.stream := rfl
@[simp] theorem State.begin_progStore : (st.begin).progStore = st.progStore := rfl
@[simp] theorem State.begin_dataStore : (st.begin).dataStore = st.dataStore := rfl
@[simp] theorem State.begin_text : (st.begin).text = st.text := rfl
@[simp] theorem State.begin_params : (st.begin).params = st.params := rfl
@[simp] theorem State.begin_draws : (st.begin).draws = st.draws := rfl

/-! ### skipBlank -/

@[simp] theorem State.skipBlank_a : (st.skipBlank).a = st.a := rfl
@[simp] theorem State.skipBlank_b : (st.skipBlank).b = st.b := rfl
@[simp] theorem State.skipBlank_dp : (st.skipBlank).dp = st.dp := rfl
@[simp] theorem State.skipBlank_x : (st.skipBlank).x = st.x := rfl
@[simp] theorem State.skipBlank_y : (st.skipBlank).y = st.y := rfl
@[simp] theorem State.skipBlank_u : (st.skipBlank).u = st.u := rfl
@[simp] theorem State.skipBlank_s : (st.skipBlank).s = st.s := rfl
@[simp] theorem State.skipBlank_pc : (st.skipBlank).pc = st.pc := rfl
@[simp] theorem State.skipBlank_n : (st.skipBlank).n = st.n := rfl
@[simp] theorem State.skipBlank_z : (st.skipBlank).z = st.z := rfl
@[simp] theorem State.skipBlank_v : (st.skipBlank).v = st.v := rfl
@[simp] theorem State.skipBlank_c : (st.skipBlank).c = st.c := rfl
@[simp] theorem State.skipBlank_h : (st.skipBlank).h = st.h := rfl
@[simp] theorem State.skipBlank_line : (st.skipBlank).line = st.line + 1 := rfl
@[simp] theorem State.skipBlank_callStack : (st.skipBlank).callStack = st.callStack := rfl
@[simp] theorem State.skipBlank_status : (st.skipBlank).status = st.status := rfl
@[simp] theorem State.skipBlank_lastError : (st.skipBlank).lastError = st.lastError := rfl
@[simp] theorem State.skipBlank_labels : (st.skipBlank).labels = st.labels := rfl
@[simp] theorem State.skipBlank_stream : (st.skipBlank).stream = st.stream := rfl
@[simp] theorem State.skipBlank_progStore : (st.skipBlank).progStore = st.progStore := rfl
@[simp] theorem State.skipBlank_dataStore : (st.skipBlank).dataStore = st.dataStore := rfl
@[simp] theorem State.skipBlank_text : (st.skipBlank).text = st.text := rfl
@[simp] theorem State.skipBlank_params : (st.skipBlank).params = st.params := rfl
@[simp] theorem State.skipBlank_draws : (st.skipBlank).draws = st.draws := rfl

/-! ### advance -/

@[simp] theorem State.advance_a (i : Instr) : (st.advance i).a = st.a := rfl
@[simp] theorem State.advance_b (i : Instr) : (st.advance i).b = st.b := rfl
@[simp] theorem State.advance_dp (i : Instr) : (st.advance i).dp = st.dp := rfl
@[simp] theorem State.advance_x (i : Instr) : (st.advance i).x = st.x := rfl
@[simp] theorem State.advance_y (i : Instr) : (st.advance i).y = st.y := rfl
@[simp] theorem State.advance_u (i : Instr) : (st.advance i).u = st.u := rfl
@[simp] theorem State.advance_s (i : Instr) : (st.advance i).s = st.s := rfl
@[simp] theorem State.advance_pc (i : Instr) : (st.advance i).pc = st.nextPc i := rfl
@[simp] theorem State.advance_n (i : Instr) : (st.advance i).n = st.n := rfl
@[simp] theorem State.advance_z (i : Instr) : (st.advance i).z = st.z := rfl
@[simp] theorem State.advance_v (i : Instr) : (st.advance i).v = st.v := rfl
@[simp] theorem State.advance_c (i : Instr) : (st.advance i).c = st.c := rfl
@[simp] theorem State.advance_h (i : Instr) : (st.advance i).h = st.h := rfl
@[simp] theorem State.advance_line (i : Instr) : (st.advance i).line = st.line + 1 := rfl
@[simp] theorem State.advance_callStack (i : Instr) : (st.advance i).callStack = st.callStack := rfl
@[simp] theorem State.advance_status (i : Instr) : (st.advance i).status = st.status := rfl
@[simp] theorem State.advance_lastError (i : Instr) : (st.advance i).lastError = st.lastError := rfl
@[simp] theorem State.advance_labels (i : Instr) : (st.advance i).labels = st.labels := rfl
@[simp] theorem State.advance_stream (i : Instr) : (st.advance i).stream = st.stream := rfl
@[simp] theorem State.advance_progStore (i : Instr) : (st.advance i).progStore = st.progStore := rfl
@[simp] theorem State.advance_dataStore (i : Instr) : (st.advance i).dataStore = st.dataStore := rfl
@[simp] theorem State.advance_text (i : Instr) : (st.advance i).text = st.text := rfl
@[simp] theorem State.advance_params (i : Instr) : (st.advance i).params = st.params := rfl
@[simp] theorem State.advance_draws (i : Instr) : (st.advance i).draws = st.draws := rfl

/-! ### goto -/

@[simp] theorem State.goto_a (t : Nat) : (st.goto t).a = st.a := rfl
@[simp] theorem State.goto_b (t : Nat) : (st.goto t).b = st.b := rfl
@[simp] theorem State.goto_dp (t : Nat) : (st.goto t).dp = st.dp := rfl
@[simp] theorem State.goto_x (t : Nat) : (st.goto t).x = st.x := rfl
@[simp] theorem State.goto_y (t : Nat) : (st.goto t).y = st.y := rfl
@[simp] theorem State.goto_u (t : Nat) : (st.goto t).u = st.u := rfl
@[simp] theorem State.goto_s (t : Nat) : (st.goto t).s = st.s := rfl
@[simp] theorem State.goto_pc (t : Nat) : (st.goto t).pc = BitVec.ofNat 16 (st.addr t) := rfl
@[simp] theorem State.goto_n (t : Nat) : (st.goto t).n = st.n := rfl
@[simp] theorem State.goto_z (t : Nat) : (st.goto t).z = st.z := rfl
@[simp] theorem State.goto_v (t : Nat) : (st.goto t).v = st.v := rfl
@[simp] theorem State.goto_c (t : Nat) : (st.goto t).c = st.c := rfl
@[simp] theorem State.goto_h (t : Nat) : (st.goto t).h = st.h := rfl
@[simp] theorem State.goto_line (t : Nat) : (st.goto t).line = t := rfl
@[simp] theorem State.goto_callStack (t : Nat) : (st.goto t).callStack = st.callStack := rfl
@[simp] theorem State.goto_status (t : Nat) : (st.goto t).status = st.status := rfl
@[simp] theorem State.goto_lastError (t : Nat) : (st.goto t).lastError = st.lastError := rfl
@[simp] theorem State.goto_labels (t : Nat) : (st.goto t).labels = st.labels := rfl
@[simp] theorem State.goto_stream (t : Nat) : (st.goto t).stream = st.stream := rfl
@[simp] theorem State.goto_progStore (t : Nat) : (st.goto t).progStore = st.progStore := rfl
@[simp] theorem State.goto_dataStore (t : Nat) : (st.goto t).dataStore = st.dataStore := rfl
@[simp] theorem State.goto_text (t : Nat) : (st.goto t).text = st.text := rfl
@[simp] theorem State.goto_params (t : Nat) : (st.goto t).params = st.params := rfl
@[simp] theorem State.goto_draws (t : Nat) : (st.goto t).draws = st.draws := rfl

/-! ### halt -/

@[simp] theorem State.halt_a (r : HaltReason) : (st.halt r).a = st.a := rfl
@[simp] theorem State.halt_b (r : HaltReason) : (st.halt r).b = st.b := rfl
@[simp] theorem State.halt_dp (r : HaltReason) : (st.halt r).dp = st.dp := rfl
@[simp] theorem State.halt_x (r : HaltReason) : (st.halt r).x = st.x := rfl
@[simp] theorem State.halt_y (r : HaltReason) : (st.halt r).y = st.y := rfl
@[simp] theorem State.halt_u (r : HaltReason) : (st.halt r).u = st.u := rfl
@[simp] theorem State.halt_s (r : HaltReason) : (st.halt r).s = st.s := rfl
@[simp] theorem State.halt_pc (r : HaltReason) : (st.halt r).pc = st.pc := rfl
@[simp] theorem State.halt_n (r : HaltReason) : (st.halt r).n = st.n := rfl
@[simp] theorem State.halt_z (r : HaltReason) : (st.halt r).z = st.z := rfl
@[simp] theorem State.halt_v (r : HaltReason) : (st.halt r).v = st.v := rfl
@[simp] theorem State.halt_c (r : HaltReason) : (st.halt r).c = st.c := rfl
@[simp] theorem State.halt_h (r : HaltReason) : (st.halt r).h = st.h := rfl
@[simp] theorem State.halt_line (r : HaltReason) : (st.halt r).line = st.line := rfl
@[simp] theorem State.halt_callStack (r : HaltReason) : (st.halt r).callStack = st.callStack := rfl
@[simp] theorem State.halt_status (r : HaltReason) : (st.halt r).status = .halted r := rfl
@[simp] theorem State.halt_lastError (r : HaltReason) : (st.halt r).lastError = st.lastError := rfl
@[simp] theorem State.halt_labels (r : HaltReason) : (st.halt r).labels = st.labels := rfl
@[simp] theorem State.halt_stream (r : HaltReason) : (st.halt r).stream = st.stream := rfl
@[simp] theorem State.halt_progStore (r : HaltReason) : (st.halt r).progStore = st.progStore := rfl
@[simp] theorem State.halt_dataStore (r : HaltReason) : (st.halt r).dataStore = st.dataStore := rfl
@[simp] theorem State.halt_text (r : HaltReason) : (st.halt r).text = st.text := rfl
@[simp] theorem State.halt_params (r : HaltReason) : (st.halt r).params = st.params := rfl
@[simp] theorem State.halt_draws (r : HaltReason) : (st.halt r).draws = st.draws := rfl

/-! ### raise -/

@[simp] theorem State.raise_a (k : ErrorKind) : (st.raise k).a = st.a := rfl
@[simp] theorem State.raise_b (k : ErrorKind) : (st.raise k).b = st.b := rfl
@[simp] theorem State.raise_dp (k : ErrorKind) : (st.raise k).dp = st.dp := rfl
@[simp] theorem State.raise_x (k : ErrorKind) : (st.raise k).x = st.x := rfl
@[simp] theorem State.raise_y (k : ErrorKind) : (st.raise k).y = st.y := rfl
@[simp] theorem State.raise_u (k : ErrorKind) : (st.raise k).u = st.u := rfl
@[simp] theorem State.raise_s (k : ErrorKind) : (st.raise k).s = st.s := rfl
@[simp] theorem State.raise_pc (k : ErrorKind) : (st.raise k).pc = st.pc := rfl
@[simp] theorem State.raise_n (k : ErrorKind) : (st.raise k).n = st.n := rfl
@[simp] theorem State.raise_z (k : ErrorKind) : (st.raise k).z = st.z := rfl
@[simp] theorem State.raise_v (k : ErrorKind) : (st.raise k).v = st.v := rfl
@[simp] theorem State.raise_c (k : ErrorKind) : (st.raise k).c = st.c := rfl
@[simp] theorem State.raise_h (k : ErrorKind) : (st.raise k).h = st.h := rfl
@[simp] theorem State.raise_line (k : ErrorKind) : (st.raise k).line = st.line := rfl
@[simp] theorem State.raise_callStack (k : ErrorKind) : (st.raise k).callStack = st.callStack := rfl
@[simp] theorem State.raise_status (k : ErrorKind) : (st.raise k).status = .halted (.fault k) := rfl
@[simp] theorem State.raise_lastError (k : ErrorKind) : (st.raise k).lastError = some (k, none) := rfl
@[simp] theorem State.raise_labels (k : ErrorKind) : (st.raise k).labels = st.labels := rfl
@[simp] theorem State.raise_stream (k : ErrorKind) : (st.raise k).stream = st.stream := rfl
@[simp] theorem State.raise_progStore (k : ErrorKind) : (st.raise k).progStore = st.progStore := rfl
@[simp] theorem State.raise_dataStore (k : ErrorKind) : (st.raise k).dataStore = st.dataStore := rfl
@[simp] theorem State.raise_text (k : ErrorKind) : (st.raise k).text = st.text := rfl
@[simp] theorem State.raise_params (k : ErrorKind) : (st.raise k).params = st.params := rfl
@[simp] theorem State.raise_draws (k : ErrorKind) : (st.raise k).draws = st.draws := rfl

/-! ### push -/

@[simp] theorem State.push_a (w : Word) : (st.push w).a = st.a := rfl
@[simp] theorem State.push_b (w : Word) : (st.push w).b = st.b := rfl
@[simp] theorem State.push_dp (w : Word) : (st.push w).dp = st.dp := rfl
@[simp] theorem State.push_x (w : Word) : (st.push w).x = st.x := rfl
@[simp] theorem State.push_y (w : Word) : (st.push w).y = st.y := rfl
@[simp] theorem State.push_u (w : Word) : (st.push w).u = st.u := rfl
@[simp] theorem State.push_s (w : Word) : (st.push w).s = st.s := rfl
@[simp] theorem State.push_pc (w : Word) : (st.push w).pc = st.pc := rfl
@[simp] theorem State.push_n (w : Word) : (st.push w).n = st.n := rfl
@[simp] theorem State.push_z (w : Word) : (st.push w).z = st.z := rfl
@[simp] theorem State.push_v (w : Word) : (st.push w).v = st.v := rfl
@[simp] theorem State.push_c (w : Word) : (st.push w).c = st.c := rfl
@[simp] theorem State.push_h (w : Word) : (st.push w).h = st.h := rfl
@[simp] theorem State.push_line (w : Word) : (st.push w).line = st.line := rfl
@[simp] theorem State.push_callStack (w : Word) : (st.push w).callStack = st.callStack ++ [w] := rfl
@[simp] theorem State.push_status (w : Word) : (st.push w).status = st.status := rfl
@[simp] theorem State.push_lastError (w : Word) : (st.push w).lastError = st.lastError := rfl
@[simp] theorem State.push_labels (w : Word) : (st.push w).labels = st.labels := rfl
@[simp] theorem State.push_stream (w : Word) : (st.push w).stream = st.stream := rfl
@[simp] theorem State.push_progStore (w : Word) : (st.push w).progStore = st.progStore := rfl
@[simp] theorem State.push_dataStore (w : Word) : (st.push w).dataStore = st.dataStore := rfl
@[simp] theorem State.push_text (w : Word) : (st.push w).text = st.text := rfl
@[simp] theorem State.push_params (w : Word) : (st.push w).params = st.params := rfl
@[simp] theorem State.push_draws (w : Word) : (st.push w).draws = st.draws := rfl

/-! ### pop -/

@[simp] theorem State.pop_a : (st.pop).a = st.a := rfl
@[simp] theorem State.pop_b : (st.pop).b = st.b := rfl
@[simp] theorem State.pop_dp : (st.pop).dp = st.dp := rfl
@[simp] theorem State.pop_x : (st.pop).x = st.x := rfl
@[simp] theorem State.pop_y : (st.pop).y = st.y := rfl
@[simp] theorem State.pop_u : (st.pop).u = st.u := rfl
@[simp] theorem State.pop_s : (st.pop).s = st.s := rfl
@[simp] theorem State.pop_pc : (st.pop).pc = st.pc := rfl
@[simp] theorem State.pop_n : (st.pop).n = st.n := rfl
@[simp] theorem State.pop_z : (st.pop).z = st.z := rfl
@[simp] theorem State.pop_v : (st.pop).v = st.v := rfl
@[simp] theorem State.pop_c : (st.pop).c = st.c := rfl
@[simp] theorem State.pop_h : (st.pop).h = st.h := rfl
@[simp] theorem State.pop_line : (st.pop).line = st.line := rfl
@[simp] theorem State.pop_callStack : (st.pop).callStack = st.callStack.dropLast := rfl
@[simp] theorem State.pop_status : (st.pop).status = st.status := rfl
@[simp] theorem State.pop_lastError : (st.pop).lastError = st.lastError := rfl
@[simp] theorem State.pop_labels : (st.pop).labels = st.labels := rfl
@[simp] theorem State.pop_stream : (st.pop).stream = st.stream := rfl
@[simp] theorem State.pop_progStore : (st.pop).progStore = st.progStore := rfl
@[simp] theorem State.pop_dataStore : (st.pop).dataStore = st.dataStore := rfl
@[simp] theorem State.pop_text : (st.pop).text = st.text := rfl
@[simp] theorem State.pop_params : (st.pop).params = st.params := rfl
@[simp] theorem State.pop_draws : (st.pop).draws = st.draws := rfl

/-! ### install -/

@[simp] theorem State.install_a (asm : Assembled) : (st.install asm).a = st.a := rfl
@[simp] theorem State.install_b (asm : Assembled) : (st.install asm).b = st.b := rfl
@[simp] theorem State.install_dp (asm : Assembled) : (st.install asm).dp = st.dp := rfl
@[simp] theorem State.install_x (asm : Assembled) : (st.install asm).x = st.x := rfl
@[simp] theorem State.install_y (asm : Assembled) : (st.install asm).y = st.y := rfl
@[simp] theorem State.install_u (asm : Assembled) : (st.install asm).u = st.u := rfl
@[simp] theorem State.install_s (asm : Assembled) : (st.install asm).s = st.s := rfl
@[simp] theorem State.install_pc (asm : Assembled) : (st.install asm).pc = st.pc := rfl
@[simp] theorem State.install_n (asm : Assembled) : (st.install asm).n = st.n := rfl
@[simp] theorem State.install_z (asm : Assembled) : (st.install asm).z = st.z := rfl
@[simp] theorem State.install_v (asm : Assembled) : (st.install asm).v = st.v := rfl
@[simp] theorem State.install_c (asm : Assembled) : (st.install asm).c = st.c := rfl
@[simp] theorem State.install_h (asm : Assembled) : (st.install asm).h = st.h := rfl
@[simp] theorem State.install_line (asm : Assembled) : (st.install asm).line = st.line := rfl
@[simp] theorem State.install_callStack (asm : Assembled) : (st.install asm).callStack = st.callStack := rfl
@[simp] theorem State.install_status (asm : Assembled) : (st.install asm).status = .ready := rfl
@[simp] theorem State.install_lastError (asm : Assembled) : (st.install asm).lastError = none := rfl
@[simp] theorem State.install_labels (asm : Assembled) : (st.install asm).labels = asm.labels := rfl
@[simp] theorem State.install_stream (asm : Assembled) : (st.install asm).stream = asm.stream := rfl
@[simp] theorem State.install_progStore (asm : Assembled) : (st.install asm).progStore = asm.image := rfl
@[simp] theorem State.install_dataStore (asm : Assembled) : (st.install asm).dataStore = st.dataStore := rfl
@[simp] theorem State.install_text (asm : Assembled) : (st.install asm).text = st.text := rfl
@[simp] theorem State.install_params (asm : Assembled) : (st.install asm).params = st.params := rfl
@[simp] theorem State.install_draws (asm : Assembled) : (st.install asm).draws = st.draws := rfl

/-! ### Reading registers back -/

@[simp] theorem State.acc_setAcc_same (r : Acc) (w : Byte) : (st.setAcc r w).acc r = w := by cases r <;> rfl

theorem State.acc_setAcc_other (r r' : Acc) (w : Byte) (h : r' ≠ r) : (st.setAcc r w).acc r' = st.acc r' := by
  cases r <;> cases r' <;> first | rfl | exact absurd rfl h

@[simp] theorem State.idx_setIdx_same (r : IdxReg) (w : Word) : (st.setIdx r w).idx r = w := by cases r <;> rfl

theorem State.idx_setIdx_other (r r' : IdxReg) (w : Word) (h : r' ≠ r) : (st.setIdx r w).idx r' = st.idx r' := by
  cases r <;> cases r' <;> first | rfl | exact absurd rfl h

@[simp] theorem State.idx_setAcc (r : Acc) (w : Byte) (r' : IdxReg) : (st.setAcc r w).idx r' = st.idx r' := by
  cases r <;> cases r' <;> rfl

@[simp] theorem State.acc_setIdx (r : IdxReg) (w : Word) (r' : Acc) : (st.setIdx r w).acc r' = st.acc r' := by
  cases r <;> cases r' <;> rfl

theorem State.pairReg_setPairReg_other (r r' : PairReg) (w : Word) (h : r' ≠ r) :
    (st.setPairReg r w).pairReg r' = st.pairReg r' := by
  cases r <;> cases r' <;> first | rfl | exact absurd rfl h

@[simp] theorem State.addr_setAcc (r : Acc) (w : Byte) (i : Nat) : (st.setAcc r w).addr i = st.addr i := by
  simp [State.addr]

@[simp] theorem State.addr_setIdx (r : IdxReg) (w : Word) (i : Nat) : (st.setIdx r w).addr i = st.addr i := by
  simp [State.addr]

@[simp] theorem State.addr_begin (i : Nat) : st.begin.addr i = st.addr i := rfl

@[simp] theorem State.addr_push (w : Word) (i : Nat) : (st.push w).addr i = st.addr i := rfl

@[simp] theorem State.addr_pop (i : Nat) : st.pop.addr i = st.addr i := rfl

@[simp] theorem State.addr_goto (t i : Nat) : (st.goto t).addr i = st.addr i := rfl

@[simp] theorem State.addr_advance (j : Instr) (i : Nat) : (st.advance j).addr i = st.addr i := rfl

@[simp] theorem State.nextPc_push (w : Word) (i : Instr) : (st.push w).nextPc i = st.nextPc i := rfl

end Sys2Proof.Machine
end

