-- ==== Sys2Proof/Laws/Exec.lean ====
section
/-!
SUPPORT. What each shared operation, each instruction and the step can answer, said once.
-/
namespace Sys2Proof.Machine

/-! ### Shared operations -/

theorem continueAfter_next {i : Instr} {st t : State} (h : continueAfter i st = .next t) : t = st.advance i :=
  (Host.Outcome.next.inj h).symm

theorem transferTo_next {l : Label} {st t : State} (h : transferTo l st = .next t) :
    ∃ k, st.labels.lookup l = some k ∧ t = st.goto k := by
  unfold transferTo at h
  split at h
  · rename_i k hk
    exact ⟨k, hk, (Host.Outcome.next.inj h).symm⟩
  · cases h

theorem branch_next {i : Instr} {k : Cond} {l : Label} {st t : State} (h : branch i k l st = .next t) :
    (st.holds k = true ∧ ∃ j, st.labels.lookup l = some j ∧ t = st.goto j) ∨
      (st.holds k = false ∧ t = st.advance i) := by
  unfold branch at h
  split at h
  · rename_i hk
    exact .inl ⟨hk, transferTo_next h⟩
  · rename_i hk
    exact .inr ⟨by simpa using hk, continueAfter_next h⟩

theorem call_next {i : Instr} {l : Label} {st t : State} (h : call i l st = .next t) :
    (st.stackFull = true ∧ t = st.raise .callStackOverflow) ∨
      (st.stackFull = false ∧ ∃ j, st.labels.lookup l = some j ∧ t = (st.push (st.nextPc i)).goto j) := by
  unfold call at h
  split at h
  · rename_i hf
    exact .inl ⟨hf, (Host.Outcome.next.inj h).symm⟩
  · rename_i hf
    exact .inr ⟨by simpa using hf, transferTo_next h⟩

theorem returnFromCall_next {st t : State} (h : returnFromCall st = .next t) :
    (st.callStack.getLast? = none ∧ t = st.halt .returnEmpty) ∨
      ∃ a, st.callStack.getLast? = some a ∧
        ((st.lineAt? a = none ∧ t = st.raise .returnAddressNotFound) ∨
          ∃ j, st.lineAt? a = some j ∧ t = { st.pop with line := j, pc := a }) := by
  unfold returnFromCall at h
  split at h
  · rename_i hn
    exact .inl ⟨hn, (Host.Outcome.next.inj h).symm⟩
  · rename_i a ha
    refine .inr ⟨a, ha, ?_⟩
    split at h
    · rename_i hn
      exact .inl ⟨hn, (Host.Outcome.next.inj h).symm⟩
    · rename_i j hj
      exact .inr ⟨j, hj, (Host.Outcome.next.inj h).symm⟩

theorem transfer_next {i : Instr} {r1 r2 : PairReg} {st t : State} (h : transfer i r1 r2 st = .next t) :
    (st.moveRaises r1 r2 = true ∧ t = st.raise .unknownRegister) ∨
      (st.moveRaises r1 r2 = false ∧ t = (st.setPairReg r2 (st.pairReg r1)).advance i) := by
  unfold transfer at h
  split at h
  · rename_i hm
    exact .inl ⟨hm, (Host.Outcome.next.inj h).symm⟩
  · rename_i hm
    exact .inr ⟨by simpa using hm, continueAfter_next h⟩

theorem exchange_next {i : Instr} {r1 r2 : PairReg} {st t : State} (h : exchange i r1 r2 st = .next t) :
    (st.moveRaises r1 r2 = true ∧ t = st.raise .unknownRegister) ∨
      (st.moveRaises r1 r2 = false ∧
        t = ((st.setPairReg r2 (st.pairReg r1)).setPairReg r1 (st.pairReg r2)).advance i) := by
  unfold exchange at h
  split at h
  · rename_i hm
    exact .inl ⟨hm, (Host.Outcome.next.inj h).symm⟩
  · rename_i hm
    exact .inr ⟨by simpa using hm, continueAfter_next h⟩

/-! ### What the data path of an instruction leaves alone -/

/-- `t` differs from `s` only in the registers A, B, X, Y, U, S, the flags, the data store and the count of
draws; H and that count only under `H_ON_ADD = Draw`; the data store stays canonical. -/
structure DataPath (s t : State) : Prop where
  dp : t.dp = s.dp
  pc : t.pc = s.pc
  line : t.line = s.line
  callStack : t.callStack = s.callStack
  status : t.status = s.status
  lastError : t.lastError = s.lastError
  labels : t.labels = s.labels
  stream : t.stream = s.stream
  progStore : t.progStore = s.progStore
  text : t.text = s.text
  params : t.params = s.params
  h : s.params.hOnAdd = .unchanged → t.h = s.h
  draws : s.params.hOnAdd = .unchanged → t.draws = s.draws
  data : s.dataStore.wf = true → t.dataStore.wf = true

theorem DataPath.refl (s : State) : DataPath s s := by
  constructor <;> intros <;> first | rfl | assumption

theorem DataPath.load8 (s : State) (r : Acc) (src : Src8) : DataPath s (s.load8 r src) := by
  constructor <;> simp [State.load8]

theorem DataPath.load16 (s : State) (r : IdxReg) (src : Src16) : DataPath s (s.load16 r src) := by
  constructor <;> simp [State.load16]

theorem DataPath.store8 (s : State) (r : Acc) (m : MemOperand) : DataPath s (s.store8 r m) := by
  constructor
  case data => exact fun h => Memory.wf_write _ _ _ h
  all_goals intros; rfl

theorem DataPath.store16 (s : State) (r : IdxReg) (m : MemOperand) : DataPath s (s.store16 r m) := by
  constructor
  case data => exact fun h => Memory.wf_write16 _ _ _ h
  all_goals intros; rfl

theorem DataPath.setHOnAdd {s t : State} (h : DataPath s t) : DataPath s t.setHOnAdd := by
  constructor
  case h =>
    intro hu
    have : t.params.hOnAdd = .unchanged := by rw [h.params]; exact hu
    simp [State.setHOnAdd, this, h.h hu]
  case draws =>
    intro hu
    have : t.params.hOnAdd = .unchanged := by rw [h.params]; exact hu
    simp [State.setHOnAdd, this, h.draws hu]
  all_goals simp [h.dp, h.pc, h.line, h.callStack, h.status, h.lastError, h.labels, h.stream, h.progStore, h.text, h.params]
  exact h.data

theorem DataPath.add (s : State) (r : Acc) (src : Src8) : DataPath s (s.add r src) := by
  apply DataPath.setHOnAdd
  constructor <;> simp

theorem DataPath.sub (s : State) (r : Acc) (src : Src8) : DataPath s (s.sub r src) := by
  constructor <;> simp [State.sub]

theorem DataPath.cmp (s : State) (r : Acc) (src : Src8) : DataPath s (s.cmp r src) := by
  constructor <;> simp [State.cmp]

theorem DataPath.logic (s : State) (op : LogicOp) (r : Acc) (src : Src8) : DataPath s (s.logic op r src) := by
  constructor <;> simp [State.logic]

theorem DataPath.unary (s : State) (op : UnaryOp) (r : Acc) : DataPath s (s.unary op r) := by
  constructor <;> simp [State.unary]

theorem DataPath.setPairReg (s : State) (r : PairReg) (w : Word) : DataPath s (s.setPairReg r w) := by
  constructor <;> simp

theorem DataPath.trans {s t u : State} (h : DataPath s t) (h' : DataPath t u) : DataPath s u where
  dp := h'.dp.trans h.dp
  pc := h'.pc.trans h.pc
  line := h'.line.trans h.line
  callStack := h'.callStack.trans h.callStack
  status := h'.status.trans h.status
  lastError := h'.lastError.trans h.lastError
  labels := h'.labels.trans h.labels
  stream := h'.stream.trans h.stream
  progStore := h'.progStore.trans h.progStore
  text := h'.text.trans h.text
  params := h'.params.trans h.params
  h := fun hu => (h'.h (by rw [h.params]; exact hu)).trans (h.h hu)
  draws := fun hu => (h'.draws (by rw [h.params]; exact hu)).trans (h.draws hu)
  data := fun hw => h'.data (h.data hw)

/-! ### Every instruction -/

/-- What an instruction that answers `next t` did (40_execution_cycle.md R214, 60_exceptions.md R505). -/
inductive ExecShape (i : Instr) (s t : State) : Prop where
  /-- The data path ran, and line and pc advanced. -/
  | continued (u : State) (hu : DataPath s u) (ht : t = u.advance i)
  /-- A jump or a taken branch. -/
  | transferred (l : Label) (k : Nat) (hl : i.label? = some l) (hk : s.labels.lookup l = some k)
      (ht : t = s.goto k)
  /-- A call with room on the stack. -/
  | called (l : Label) (k : Nat) (hl : i.label? = some l) (hi : i.mnemonic = .jsr ∨ i.mnemonic = .bsr)
      (hf : s.stackFull = false) (hk : s.labels.lookup l = some k) (ht : t = (s.push (s.nextPc i)).goto k)
  /-- RTS with a return address that a line has. -/
  | returned (a : Word) (j : Nat) (hi : i = .rts) (ha : s.callStack.getLast? = some a)
      (hj : s.lineAt? a = some j) (ht : t = { s.pop with line := j, pc := a })
  /-- END, SWI, or RTS on an empty stack. -/
  | halted (r : HaltReason) (hr : r = .programEnd ∧ i = .endProgram ∨ r = .swi ∧ i = .swi ∨
      r = .returnEmpty ∧ i = .rts ∧ s.callStack = []) (ht : t = s.halt r)
  /-- A TFR or EXG that cannot move. -/
  | moveRaised (hi : i.mnemonic = .tfr ∨ i.mnemonic = .exg) (ht : t = s.raise .unknownRegister)
  /-- A call on a full stack. -/
  | overflowed (hi : i.mnemonic = .jsr ∨ i.mnemonic = .bsr) (hf : s.stackFull = true)
      (ht : t = s.raise .callStackOverflow)
  /-- RTS with an address that no line has. -/
  | lost (a : Word) (hi : i = .rts) (ha : s.callStack.getLast? = some a) (hj : s.lineAt? a = none)
      (ht : t = s.raise .returnAddressNotFound)

theorem ExecShape.ofContinue {i : Instr} {s t u : State} (hu : DataPath s u) (h : continueAfter i u = .next t) :
    ExecShape i s t :=
  .continued u hu (continueAfter_next h)

theorem ExecShape.ofTransferTo {i : Instr} {l : Label} {s t : State} (hl : i.label? = some l)
    (h : transferTo l s = .next t) : ExecShape i s t := by
  obtain ⟨k, hk, ht⟩ := transferTo_next h
  exact .transferred l k hl hk ht

theorem ExecShape.ofBranch {i : Instr} {k : Cond} {l : Label} {s t : State} (hl : i.label? = some l)
    (h : branch i k l s = .next t) : ExecShape i s t := by
  rcases branch_next h with ⟨_, j, hj, ht⟩ | ⟨_, ht⟩
  · exact .transferred l j hl hj ht
  · exact .continued s (DataPath.refl s) ht

theorem ExecShape.ofCall {i : Instr} {l : Label} {s t : State} (hl : i.label? = some l)
    (hi : i.mnemonic = .jsr ∨ i.mnemonic = .bsr) (h : call i l s = .next t) : ExecShape i s t := by
  rcases call_next h with ⟨hf, ht⟩ | ⟨hf, j, hj, ht⟩
  · exact .overflowed hi hf ht
  · exact .called l j hl hi hf hj ht

theorem ExecShape.ofReturn {s t : State} (h : returnFromCall s = .next t) : ExecShape .rts s t := by
  rcases returnFromCall_next h with ⟨hn, ht⟩ | ⟨a, ha, ⟨hj, ht⟩ | ⟨j, hj, ht⟩⟩
  · exact .halted .returnEmpty (.inr (.inr ⟨rfl, rfl, List.getLast?_eq_none_iff.mp hn⟩)) ht
  · exact .lost a rfl ha hj ht
  · exact .returned a j rfl ha hj ht

theorem ExecShape.ofTransfer {i : Instr} {r1 r2 : PairReg} {s t : State}
    (hi : i.mnemonic = .tfr ∨ i.mnemonic = .exg) (h : transfer i r1 r2 s = .next t) : ExecShape i s t := by
  rcases transfer_next h with ⟨_, ht⟩ | ⟨_, ht⟩
  · exact .moveRaised hi ht
  · exact .continued _ (DataPath.setPairReg s r2 _) ht

theorem ExecShape.ofExchange {i : Instr} {r1 r2 : PairReg} {s t : State}
    (hi : i.mnemonic = .tfr ∨ i.mnemonic = .exg) (h : exchange i r1 r2 s = .next t) : ExecShape i s t := by
  rcases exchange_next h with ⟨_, ht⟩ | ⟨_, ht⟩
  · exact .moveRaised hi ht
  · exact .continued _ ((DataPath.setPairReg s r2 _).trans (DataPath.setPairReg _ r1 _)) ht

/-- Every instruction that answers a next state has one of these shapes. -/
theorem exec_shape {i : Instr} {s t : State} (h : exec i s = .next t) : ExecShape i s t := by
  cases i
  case tfr => exact .ofTransfer (.inl rfl) h
  case exg => exact .ofExchange (.inr rfl) h
  case jmp => exact .ofTransferTo rfl h
  case jsr => exact .ofCall rfl (.inl rfl) h
  case bsr => exact .ofCall rfl (.inr rfl) h
  case rts => exact .ofReturn h
  case swi => exact .halted .swi (.inr (.inl ⟨rfl, rfl⟩)) (Host.Outcome.next.inj h).symm
  case endProgram => exact .halted .programEnd (.inl ⟨rfl, rfl⟩) (Host.Outcome.next.inj h).symm
  case nop => exact .ofContinue (DataPath.refl s) h
  case ldaImmediate | ldaDirect | ldaIndexed | ldaExtended | ldbImmediate |
      ldbDirect | ldbIndexed | ldbExtended =>
    exact .ofContinue (DataPath.load8 s _ _) h
  case ldxImmediate | ldxDirect | ldxIndexed | ldxExtended | ldyImmediate |
      ldyDirect | ldyIndexed | ldyExtended | lduImmediate | lduDirect |
      lduIndexed | lduExtended | ldsImmediate | ldsDirect | ldsIndexed |
      ldsExtended =>
    exact .ofContinue (DataPath.load16 s _ _) h
  case staDirect | staIndexed | staExtended | stbDirect | stbIndexed |
      stbExtended =>
    exact .ofContinue (DataPath.store8 s _ _) h
  case stxDirect | stxIndexed | stxExtended | styDirect | styIndexed |
      styExtended | stuDirect | stuIndexed | stuExtended | stsDirect |
      stsIndexed | stsExtended =>
    exact .ofContinue (DataPath.store16 s _ _) h
  case addaImmediate | addaDirect | addaIndexed | addaExtended | addbImmediate |
      addbDirect | addbIndexed | addbExtended =>
    exact .ofContinue (DataPath.add s _ _) h
  case subaImmediate | subaDirect | subaIndexed | subaExtended | subbImmediate |
      subbDirect | subbIndexed | subbExtended =>
    exact .ofContinue (DataPath.sub s _ _) h
  case cmpaImmediate | cmpaDirect | cmpaIndexed | cmpaExtended | cmpbImmediate |
      cmpbDirect | cmpbIndexed | cmpbExtended =>
    exact .ofContinue (DataPath.cmp s _ _) h
  case inca | incb | deca | decb | lsla |
      lslb | lsra | lsrb | rola | rolb |
      rora | rorb | clra | clrb | coma |
      comb | nega | negb =>
    exact .ofContinue (DataPath.unary s _ _) h
  case andaImmediate | andaDirect | andaIndexed | andaExtended | andbImmediate |
      andbDirect | andbIndexed | andbExtended | oraImmediate | oraDirect |
      oraIndexed | oraExtended | orbImmediate | orbDirect | orbIndexed |
      orbExtended | eoraImmediate | eoraDirect | eoraIndexed | eoraExtended |
      eorbImmediate | eorbDirect | eorbIndexed | eorbExtended =>
    exact .ofContinue (DataPath.logic s _ _ _) h
  case bra => exact .ofBranch (k := .always) rfl h
  case beq => exact .ofBranch (k := .eq) rfl h
  case bne => exact .ofBranch (k := .ne) rfl h
  case bmi => exact .ofBranch (k := .mi) rfl h
  case bpl => exact .ofBranch (k := .pl) rfl h
  case bcc => exact .ofBranch (k := .cc) rfl h
  case bcs => exact .ofBranch (k := .cs) rfl h
  case bvc => exact .ofBranch (k := .vc) rfl h
  case bvs => exact .ofBranch (k := .vs) rfl h

/-! ### The step -/

/-- What a step that answers `next t` did (R211 to R216). -/
inductive StepShape (s t : State) : Prop where
  | assembled (hs : s.status = .notAssembled) (ht : t = s.assemble)
  | idle (r : HaltReason) (hs : s.status = .halted r) (ht : t = s)
  | exhausted (hs : s.status = .ready ∨ s.status = .running) (hf : fetch s = .exhausted)
      (ht : t = s.halt .exhausted)
  | blank (hs : s.status = .ready ∨ s.status = .running) (hf : fetch s = .blank) (ht : t = s.begin.skipBlank)
  | ran (i : Instr) (hs : s.status = .ready ∨ s.status = .running) (hf : fetch s = .instr i)
      (ht : exec i s.begin = .next t)
  | unknown (hs : s.status = .ready ∨ s.status = .running) (hf : fetch s = .unknownMnemonic)
      (ht : t = s.raise .unsupportedInstruction)

/-- A step in `Ready` or `Running` is what its line makes it. -/
theorem step_of_live {s : State} (hs : s.status = .ready ∨ s.status = .running) :
    step s =
      match fetch s with
      | .exhausted => .next (s.halt .exhausted)
      | .blank => .next s.begin.skipBlank
      | .instr i => exec i s.begin
      | .unknownMnemonic => .next (s.raise .unsupportedInstruction)
      | .malformed k => .fault (.malformedLine k) := by
  unfold step
  rcases hs with hs | hs <;> rw [hs] <;> rfl

/-- Every step that answers a next state has one of these shapes. -/
theorem step_shape {s t : State} (h : step s = .next t) : StepShape s t := by
  by_cases hn : s.status = .notAssembled
  · rw [step, hn] at h
    exact .assembled hn (Host.Outcome.next.inj h).symm
  by_cases hh : ∃ r, s.status = .halted r
  · obtain ⟨r, hr⟩ := hh
    rw [step, hr] at h
    exact .idle r hr (Host.Outcome.next.inj h).symm
  have hs : s.status = .ready ∨ s.status = .running := by
    cases hst : s.status with
    | notAssembled => exact absurd hst hn
    | halted r => exact absurd ⟨r, hst⟩ hh
    | ready => exact .inl rfl
    | running => exact .inr rfl
  rw [step_of_live hs] at h
  cases hf : fetch s with
  | exhausted => rw [hf] at h; exact .exhausted hs hf (Host.Outcome.next.inj h).symm
  | blank => rw [hf] at h; exact .blank hs hf (Host.Outcome.next.inj h).symm
  | instr i => rw [hf] at h; exact .ran i hs hf h
  | unknownMnemonic => rw [hf] at h; exact .unknown hs hf (Host.Outcome.next.inj h).symm
  | malformed k => rw [hf] at h; cases h

end Sys2Proof.Machine
end

