-- ==== Sys2Proof/Laws/Commands.lean ====
section
/-!
SUPPORT. What a run, a command and its reply can be, said once (40_execution_cycle.md R225 to R233).
-/
namespace Sys2Proof.Machine

/-! ### Status -/

theorem State.live_or_halted (s : State) : s.status = .notAssembled ∨ s.Live ∨ s.Halted := by
  cases h : s.status with
  | notAssembled => exact .inl rfl
  | ready => exact .inr (.inl (.inl h))
  | running => exact .inr (.inl (.inr h))
  | halted r => exact .inr (.inr ⟨r, h⟩)

theorem State.Live.not_halted {s : State} (h : s.Live) : ¬ s.Halted := by
  rintro ⟨r, hr⟩
  rcases h with h | h <;> rw [hr] at h <;> cases h

@[simp] theorem State.reportsComplete_iff (s : State) : s.reportsComplete = true ↔ s.Halted := by
  unfold State.reportsComplete State.Halted
  cases s.status <;> simp

@[simp] theorem State.reportsComplete_eq_false (s : State) : s.reportsComplete = false ↔ ¬ s.Halted := by
  rw [← Bool.not_eq_true, State.reportsComplete_iff]

theorem step_of_halted {s : State} (h : s.Halted) : step s = .next s := by
  obtain ⟨r, hr⟩ := h
  rw [step, hr]

/-! ### Runs -/

@[simp] theorem runSteps_zero (s : State) : runSteps 0 s = .next s := rfl

theorem runSteps_of_halted {s : State} (h : s.Halted) (n : Nat) : runSteps n s = .next s := by
  obtain ⟨r, hr⟩ := h
  cases n with
  | zero => rfl
  | succ n => rw [runSteps, hr]

/-- Where a run of a state that is not halted answers a next state, its first step does, and the rest runs on from
there. -/
theorem runSteps_succ_next {n : Nat} {s t : State} (h : ¬ s.Halted) :
    runSteps (n + 1) s = .next t ↔ ∃ u, step s = .next u ∧ runSteps n u = .next t := by
  cases hs : s.status with
  | halted r => exact absurd ⟨r, hs⟩ h
  | notAssembled | ready | running => rw [runSteps, hs]; cases step s <;> simp

/-- No step leads out of a halted state. -/
theorem RunsIn.of_halted {k : Nat} {s t : State} (h : RunsIn k s t) (hs : s.Halted) : k = 0 ∧ t = s := by
  cases h with
  | done => exact ⟨rfl, rfl⟩
  | step hn _ _ => exact absurd hs hn

/-! ### Addresses written -/

theorem stepStores_of_instr {s : State} {i : Instr} (hs : s.Live) (hf : fetch s = .instr i) :
    stepStores s = storedAddrs s i := by
  unfold stepStores
  rcases hs with h | h <;> rw [h] <;> simp only [hf]

/-- The addresses that the next step writes are those of the instruction it runs. -/
theorem mem_stepStores {s : State} {a : Word} :
    a ∈ stepStores s ↔ ∃ i, s.Live ∧ fetch s = .instr i ∧ a ∈ storedAddrs s i := by
  constructor
  · intro h
    rcases s.live_or_halted with hn | hl | ⟨r, hr⟩
    · simp [stepStores, hn] at h
    · cases hf : fetch s with
      | instr i => exact ⟨i, hl, rfl, stepStores_of_instr hl hf ▸ h⟩
      | exhausted | blank | unknownMnemonic | malformed =>
        unfold stepStores at h
        rcases hl with hl | hl <;> rw [hl] at h <;> simp [hf] at h
    · simp [stepStores, hr] at h
  · rintro ⟨i, hl, hf, ha⟩
    rw [stepStores_of_instr hl hf]
    exact ha

/-! ### Replies -/

@[simp] theorem reply_state (s : State) (addrs : List Word) : (reply s addrs).state = s := rfl
@[simp] theorem reply_snapshot (s : State) (addrs : List Word) : (reply s addrs).snapshot = s.snapshot addrs := rfl
@[simp] theorem reply_saved (s : State) (addrs : List Word) : (reply s addrs).saved = none := rfl
@[simp] theorem reply_executionComplete (s : State) (addrs : List Word) : (reply s addrs).executionComplete = false := rfl

@[simp] theorem reply_complete_false (s : State) (addrs : List Word) :
    ({ reply s addrs with executionComplete := false } : Reply) = reply s addrs := rfl

theorem replyTo_next {complete : Bool} {addrs : List Word} {o : Result} {r : Reply}
    (h : replyTo complete addrs o = .next r) :
    ∃ t, o = .next t ∧ r = { reply t addrs with executionComplete := complete } := by
  cases o with
  | next t => exact ⟨t, rfl, (Host.Outcome.next.inj h).symm⟩
  | fault f => cases h
  | refused f => cases h

/-- What a command that answers did: a Step or a Run ended in the state replied, or a command that cannot stop
answered; the snapshot is always of the state replied. -/
theorem command_next {fuel : Nat} {cmd : Command} {s : State} {r : Reply} (h : command fuel cmd s = .next r) :
    (cmd = .step ∧ step s = .next r.state ∧ r.snapshot = r.state.snapshot (stepStores s)) ∨
      (cmd = .run ∧ runCommand fuel s = .next r.state ∧ r.snapshot = r.state.snapshot (runCommandStores fuel s)) ∨
      (cmd ≠ .step ∧ cmd ≠ .run ∧ r.executionComplete = false ∧ r.snapshot = r.state.snapshot []) := by
  cases cmd
  case step =>
    obtain ⟨t, ht, rfl⟩ := replyTo_next h
    exact .inl ⟨rfl, ht, rfl⟩
  case run =>
    obtain ⟨t, ht, rfl⟩ := replyTo_next h
    exact .inr (.inl ⟨rfl, ht, rfl⟩)
  all_goals
    cases h
    refine .inr (.inr ⟨?_, ?_, rfl, rfl⟩) <;> intro hc <;> cases hc

end Sys2Proof.Machine
end

