-- ==== Sys2Proof/Laws/Flags.lean ====
section
/-!
SUPPORT. What `add8` and `sub8` compute, as bit-vector arithmetic (42_add_sub_compare.md R276, R277).
-/
namespace Sys2Proof.Machine

theorem add8_eq (a m : Byte) :
    add8 a m =
      { r := a + m
        n := (a + m).getLsbD 7
        z := a + m == 0
        v := ((a ^^^ (a + m)) &&& (m ^^^ (a + m)) &&& 0x80#8) != 0
        c := decide (0xFF < a.toNat + m.toNat) } := by
  have h : BitVec.ofNat 8 (a.toNat + m.toNat) = a + m := by simp [BitVec.ofNat_add]
  simp only [add8, h]

theorem sub8_eq (a m : Byte) :
    sub8 a m =
      { r := a - m
        n := (a - m).getLsbD 7
        z := a - m == 0
        v := ((a ^^^ m) &&& (a ^^^ (a - m)) &&& 0x80#8) != 0
        c := decide (a.toNat < m.toNat) } := by
  have h : BitVec.ofInt 8 ((a.toNat : Int) - m.toNat) = a - m := by
    have h1 := a.isLt
    have h2 := m.isLt
    apply BitVec.eq_of_toNat_eq
    rw [BitVec.toNat_ofInt, BitVec.toNat_sub]
    omega
  have hc : ((a.toNat : Int) - m.toNat < 0) ↔ a.toNat < m.toNat := by omega
  simp only [sub8, h, hc]

end Sys2Proof.Machine
end

