-- ==== Sys2Proof/Laws/Text.lean ====
section
/-!
SUPPORT. What the readers of numerals accept and what value they give, and which lines pass 1 refuses.
-/
namespace Sys2Proof.Machine

/-! ### Numerals -/

/-- A reader of digits in some base reads each of the digits at its place in the list, and no other character. -/
def ReadsDigits (digit : Char → Option Nat) (digits : Text) : Prop :=
  ∀ c d, digit c = some d ↔ c ∈ digits ∧ d = digits.idxOf c

theorem mem_of_toNat_le {c : Char} {digits : Text} {lo hi : Nat} (h : lo ≤ c.toNat ∧ c.toNat ≤ hi)
    (hd : ((List.range (hi + 1 - lo)).all fun k => digits.contains (Char.ofNat (lo + k))) = true) : c ∈ digits := by
  have := List.all_eq_true.mp hd (c.toNat - lo) (by rw [List.mem_range]; omega)
  rw [show lo + (c.toNat - lo) = c.toNat by omega, Char.ofNat_toNat] at this
  simpa using this

theorem decDigit_readsDigits : ReadsDigits decDigit decimalDigits := by
  intro c d
  have key : ∀ c ∈ decimalDigits, decDigit c = some (decimalDigits.idxOf c) := by
    simp only [decimalDigits, List.forall_mem_cons]
    refine ⟨rfl, rfl, rfl, rfl, rfl, rfl, rfl, rfl, rfl, rfl, ?_⟩
    simp
  constructor
  · intro h
    have hc : c ∈ decimalDigits := by
      unfold decDigit at h
      split at h
      · rename_i hr
        exact mem_of_toNat_le hr (by decide)
      · cases h
    rw [key c hc, Option.some.injEq] at h
    exact ⟨hc, h.symm⟩
  · rintro ⟨hc, rfl⟩
    exact key c hc

theorem hexDigit_readsDigits : ReadsDigits hexDigit hexDigits := by
  intro c d
  have key : ∀ c ∈ hexDigits, hexDigit c = some (hexDigits.idxOf c) := by
    simp only [hexDigits, decimalDigits, List.cons_append, List.nil_append, List.forall_mem_cons]
    refine ⟨rfl, rfl, rfl, rfl, rfl, rfl, rfl, rfl, rfl, rfl, rfl, rfl, rfl, rfl, rfl, rfl, ?_⟩
    simp
  constructor
  · intro h
    have hc : c ∈ hexDigits := by
      unfold hexDigit at h
      split at h
      · rename_i hr
        exact mem_of_toNat_le hr (by decide)
      · split at h
        · rename_i hr
          exact mem_of_toNat_le hr (by decide)
        · cases h
    rw [key c hc, Option.some.injEq] at h
    exact ⟨hc, h.symm⟩
  · rintro ⟨hc, rfl⟩
    exact key c hc

theorem digitsFrom_eq_some {digit : Char → Option Nat} {digits : Text} (hd : ReadsDigits digit digits) {acc v : Nat}
    {ds : Text} : digitsFrom digits.length digit acc ds = some v ↔
      (∀ c ∈ ds, c ∈ digits) ∧ v = ds.foldl (fun v c => digits.length * v + digits.idxOf c) acc := by
  induction ds generalizing acc with
  | nil => simp [digitsFrom, eq_comm]
  | cons c cs ih =>
    unfold digitsFrom
    cases hc : digit c with
    | some d =>
      obtain ⟨hm, rfl⟩ := (hd c d).mp hc
      simp [ih, hm]
    | none =>
      have : c ∉ digits := fun hm => by
        rw [(hd c _).mpr ⟨hm, rfl⟩] at hc
        cases hc
      simp [this]

/-- Decimal text is read exactly when it is a numeral, at its value. -/
theorem parseDec_eq_some {ds : Text} {v : Nat} :
    parseDec ds = some v ↔ IsNumeral decimalDigits ds ∧ v = numeralValue decimalDigits ds := by
  have h := digitsFrom_eq_some decDigit_readsDigits (acc := 0) (v := v) (ds := ds)
  unfold parseDec IsNumeral numeralValue
  cases ds with
  | nil => simp
  | cons c cs =>
    have hl : decimalDigits.length = 10 := rfl
    rw [hl] at h
    simpa [hl] using h

/-- Hexadecimal text is read exactly when it is a numeral, at its value. -/
theorem parseHex_eq_some {ds : Text} {v : Nat} :
    parseHex ds = some v ↔ IsNumeral hexDigits ds ∧ v = numeralValue hexDigits ds := by
  have h := digitsFrom_eq_some hexDigit_readsDigits (acc := 0) (v := v) (ds := ds)
  unfold parseHex IsNumeral numeralValue
  cases ds with
  | nil => simp
  | cons c cs =>
    have hl : hexDigits.length = 16 := rfl
    rw [hl] at h
    simpa [hl] using h

/-- A signed decimal offset is a numeral in the range of its sign. -/
theorem signedOffset_eq_some {negative : Bool} {ds : Text} {b : Byte} :
    signedOffset negative ds = some b ↔ IsNumeral decimalDigits ds ∧
      (if negative then numeralValue decimalDigits ds ≤ 128 ∧ b = BitVec.ofInt 8 (-(numeralValue decimalDigits ds : Int))
       else numeralValue decimalDigits ds ≤ 127 ∧ b = BitVec.ofNat 8 (numeralValue decimalDigits ds)) := by
  unfold signedOffset
  cases h : parseDec ds with
  | none =>
    have hn : ¬ IsNumeral decimalDigits ds := fun hn => by
      rw [parseDec_eq_some.mpr ⟨hn, rfl⟩] at h
      cases h
    simp [hn]
  | some v =>
    obtain ⟨hn, rfl⟩ := parseDec_eq_some.mp h
    cases negative <;> simp [hn, eq_comm]

/-! ### Pass 1 -/

theorem lineOfTokens_eq_none {ts : List Text} : lineOfTokens ts = none ↔ 3 ≤ ts.length := by
  match ts with
  | [] | [_] | [_, _] => simp [lineOfTokens]
  | _ :: _ :: _ :: _ => simp [lineOfTokens]

/-- A declaration is refused exactly in the three cases of 30_encoding.md R114. -/
theorem declare_eq_none {labels : LabelTable} {i : Nat} {part : Option Label} :
    declare labels i part = none ↔
      ∃ l, part = some l ∧ (l = [] ∨ (∃ c ∈ l, isSpace c = true) ∨ (labels.lookup l).isSome = true) := by
  cases part with
  | none => simp [declare]
  | some l =>
    have h : labelDeclares labels l = false ↔ l = [] ∨ (∃ c ∈ l, isSpace c = true) ∨ (labels.lookup l).isSome = true := by
      unfold labelDeclares
      cases l with
      | nil => simp
      | cons c cs => cases List.lookup (c :: cs) labels <;> cases hc : isSpace c <;> simp [hc]
    simp only [declare, Option.some.injEq, exists_eq_left', ← h]
    cases labelDeclares labels l <;> simp

end Sys2Proof.Machine
end

