-- ==== Sys2Proof/Tests/Slice0.lean ====
section
/-!
SUPPORT. Tests: ill-formed terms, the decoding of every row, one-step vectors of 95_test_vectors.md, and a witness for the
hypotheses of each statement of Certificates/Slice0/Obligations.lean.
-/
namespace Sys2Proof.Tests

set_option Elab.async false

open Sys2Proof Sys2Proof.Machine

/-! ## Helpers -/

/-- The instruction that exactly these bytes spell. -/
def decodesTo (bs : List Byte) : Option Instr :=
  match decode Config.defaults bs with
  | .ok (i, []) => some i
  | _ => none

/-- The state after assembling a text from reset. -/
def assembled (text : String) (p : Params := Config.defaults) : State :=
  State.assemble { State.reset with text := text.toList, params := p }

/-- The state after one step of an assembled text, from a launch state that `f` makes. -/
def ran (text : String) (f : State → State := id) (p : Params := Config.defaults) : Option State :=
  match step (f (assembled text p)) with
  | .next t => some t
  | _ => none

/-- The state after at most `k` steps of an assembled text. -/
def ranFor (k : Nat) (text : String) (p : Params := Config.defaults) : Option State :=
  match runSteps k (assembled text p) with
  | .next t => some t
  | _ => none

def flags (t : State) : List Bool := [t.n, t.z, t.v, t.c, t.h]

/-! ## Ill-formed terms -/

theorem test_wf_label_empty : Instr.wellFormed Config.defaults (.bra []) = false := by decide
theorem test_wf_label_lower_case : Instr.wellFormed Config.defaults (.jmp ['l']) = false := by decide
theorem test_wf_label_space : Instr.wellFormed Config.defaults (.beq ['A', ' ', 'B']) = false := by decide
theorem test_wf_label_colon : Instr.wellFormed Config.defaults (.bne ['A', ':']) = false := by decide
theorem test_wf_label_semicolon : Instr.wellFormed Config.defaults (.bmi ['A', ';']) = false := by decide
theorem test_wf_label_comma : Instr.wellFormed Config.defaults (.bpl ['A', ',', 'X']) = false := by decide
theorem test_wf_label_hash : Instr.wellFormed Config.defaults (.bcc ['#', '1']) = false := by decide
theorem test_wf_label_dollar : Instr.wellFormed Config.defaults (.bcs ['$', '1']) = false := by decide
theorem test_wf_imm16_byte : Instr.wellFormed Config.defaults (.ldxImmediate (.byte 0x10)) = false := by decide
theorem test_wf_call_refused :
    Instr.wellFormed { Config.defaults with callInsns := .refused } (.jsr ['S']) = false := by decide
theorem test_wf_label : Instr.wellFormed Config.defaults (.bra ['L', 'O', 'O', 'P']) = true := by decide

/-! ## Every row's bytes

Written out from the cells of 30_encoding.md R150 and the formats of R159, R165 and R166. -/

theorem test_decode_loads :
    [[0x86, 0x5A], [0x96, 0x7F], [0xA6, 0x84, 0xFE], [0xB6, 0x12, 0x34], [0xC6, 0x5A], [0xD6, 0x7F],
     [0xE6, 0xA4, 0xFE], [0xF6, 0x12, 0x34], [0x8E, 0x12, 0x34], [0x9E, 0x7F], [0xAE, 0xC4, 0xFE],
     [0xBE, 0x12, 0x34], [0x10, 0x8E, 0x12, 0x34], [0x10, 0x9E, 0x7F], [0x10, 0xAE, 0xE4, 0xFE],
     [0x10, 0xBE, 0x12, 0x34], [0xCE, 0x12, 0x34], [0xDE, 0x7F], [0xEE, 0x84, 0xFE], [0xFE, 0x12, 0x34],
     [0x10, 0xCE, 0x12, 0x34], [0x10, 0xDE, 0x7F], [0x10, 0xEE, 0xA4, 0xFE], [0x10, 0xFE, 0x12, 0x34]].map decodesTo =
      [.ldaImmediate 0x5A, .ldaDirect 0x7F, .ldaIndexed .x 0xFE, .ldaExtended 0x1234, .ldbImmediate 0x5A,
      .ldbDirect 0x7F, .ldbIndexed .y 0xFE, .ldbExtended 0x1234, .ldxImmediate (.word 0x1234), .ldxDirect 0x7F,
      .ldxIndexed .u 0xFE, .ldxExtended 0x1234, .ldyImmediate (.word 0x1234), .ldyDirect 0x7F, .ldyIndexed .s 0xFE,
      .ldyExtended 0x1234, .lduImmediate (.word 0x1234), .lduDirect 0x7F, .lduIndexed .x 0xFE, .lduExtended 0x1234,
      .ldsImmediate (.word 0x1234), .ldsDirect 0x7F, .ldsIndexed .y 0xFE, .ldsExtended 0x1234].map some := by
  decide +kernel

theorem test_decode_stores :
    [[0x97, 0x7F], [0xA7, 0xC4, 0xFE], [0xB7, 0x12, 0x34], [0xD7, 0x7F], [0xE7, 0xE4, 0xFE], [0xF7, 0x12, 0x34],
     [0x9F, 0x7F], [0xAF, 0x84, 0xFE], [0xBF, 0x12, 0x34], [0x10, 0x9F, 0x7F], [0x10, 0xAF, 0xA4, 0xFE],
     [0x10, 0xBF, 0x12, 0x34], [0xDF, 0x7F], [0xEF, 0xC4, 0xFE], [0xFF, 0x12, 0x34], [0x10, 0xDF, 0x7F],
     [0x10, 0xEF, 0xE4, 0xFE], [0x10, 0xFF, 0x12, 0x34]].map decodesTo =
      [.staDirect 0x7F, .staIndexed .u 0xFE, .staExtended 0x1234, .stbDirect 0x7F, .stbIndexed .s 0xFE,
      .stbExtended 0x1234, .stxDirect 0x7F, .stxIndexed .x 0xFE, .stxExtended 0x1234, .styDirect 0x7F,
      .styIndexed .y 0xFE, .styExtended 0x1234, .stuDirect 0x7F, .stuIndexed .u 0xFE, .stuExtended 0x1234,
      .stsDirect 0x7F, .stsIndexed .s 0xFE, .stsExtended 0x1234].map some := by
  decide +kernel

theorem test_decode_arith :
    [[0x8B, 0x5A], [0x9B, 0x7F], [0xAB, 0x84, 0xFE], [0xBB, 0x12, 0x34], [0xCB, 0x5A], [0xDB, 0x7F],
     [0xEB, 0xA4, 0xFE], [0xFB, 0x12, 0x34], [0x80, 0x5A], [0x90, 0x7F], [0xA0, 0xC4, 0xFE], [0xB0, 0x12, 0x34],
     [0xC0, 0x5A], [0xD0, 0x7F], [0xE0, 0xE4, 0xFE], [0xF0, 0x12, 0x34], [0x81, 0x5A], [0x91, 0x7F],
     [0xA1, 0x84, 0xFE], [0xB1, 0x12, 0x34], [0xC1, 0x5A], [0xD1, 0x7F], [0xE1, 0xA4, 0xFE], [0xF1, 0x12, 0x34]].map decodesTo =
      [.addaImmediate 0x5A, .addaDirect 0x7F, .addaIndexed .x 0xFE, .addaExtended 0x1234, .addbImmediate 0x5A,
      .addbDirect 0x7F, .addbIndexed .y 0xFE, .addbExtended 0x1234, .subaImmediate 0x5A, .subaDirect 0x7F,
      .subaIndexed .u 0xFE, .subaExtended 0x1234, .subbImmediate 0x5A, .subbDirect 0x7F, .subbIndexed .s 0xFE,
      .subbExtended 0x1234, .cmpaImmediate 0x5A, .cmpaDirect 0x7F, .cmpaIndexed .x 0xFE, .cmpaExtended 0x1234,
      .cmpbImmediate 0x5A, .cmpbDirect 0x7F, .cmpbIndexed .y 0xFE, .cmpbExtended 0x1234].map some := by
  decide +kernel

theorem test_decode_shifts :
    [[0x4C], [0x5C], [0x4A], [0x5A], [0x48], [0x58], [0x44], [0x54], [0x49], [0x59], [0x46], [0x56]].map decodesTo =
      [.inca, .incb, .deca, .decb, .lsla, .lslb, .lsra, .lsrb, .rola, .rolb, .rora, .rorb].map some := by
  decide +kernel

theorem test_decode_bitwise :
    [[0x84, 0x5A], [0x94, 0x7F], [0xA4, 0xC4, 0xFE], [0xB4, 0x12, 0x34], [0xC4, 0x5A], [0xD4, 0x7F],
     [0xE4, 0xE4, 0xFE], [0xF4, 0x12, 0x34], [0x8A, 0x5A], [0x9A, 0x7F], [0xAA, 0x84, 0xFE], [0xBA, 0x12, 0x34],
     [0xCA, 0x5A], [0xDA, 0x7F], [0xEA, 0xA4, 0xFE], [0xFA, 0x12, 0x34], [0x88, 0x5A], [0x98, 0x7F],
     [0xA8, 0xC4, 0xFE], [0xB8, 0x12, 0x34], [0xC8, 0x5A], [0xD8, 0x7F], [0xE8, 0xE4, 0xFE], [0xF8, 0x12, 0x34],
     [0x4F], [0x5F], [0x43], [0x53], [0x40], [0x50]].map decodesTo =
      [.andaImmediate 0x5A, .andaDirect 0x7F, .andaIndexed .u 0xFE, .andaExtended 0x1234, .andbImmediate 0x5A,
      .andbDirect 0x7F, .andbIndexed .s 0xFE, .andbExtended 0x1234, .oraImmediate 0x5A, .oraDirect 0x7F,
      .oraIndexed .x 0xFE, .oraExtended 0x1234, .orbImmediate 0x5A, .orbDirect 0x7F, .orbIndexed .y 0xFE,
      .orbExtended 0x1234, .eoraImmediate 0x5A, .eoraDirect 0x7F, .eoraIndexed .u 0xFE, .eoraExtended 0x1234,
      .eorbImmediate 0x5A, .eorbDirect 0x7F, .eorbIndexed .s 0xFE, .eorbExtended 0x1234, .clra, .clrb, .coma,
      .comb, .nega, .negb].map some := by
  decide +kernel

theorem test_decode_moves :
    [[0x1F, 0x89], [0x1E, 0x34]].map decodesTo =
      [.tfr .a .b, .exg .u .s].map some := by
  decide +kernel

theorem test_decode_transfers :
    [[0x7E, 0xFE, 0x04], [0x20, 0xFD], [0x27, 0xFD], [0x26, 0xFD], [0x2B, 0xFD], [0x2A, 0xFD], [0x24, 0xFD],
     [0x25, 0xFD], [0x28, 0xFD], [0x29, 0xFD], [0xBD, 0xFE, 0x04], [0x8D, 0xFD], [0x39]].map decodesTo =
      [.jmp ['L', 'F', 'E', '0', '4'], .bra ['L', 'F', 'D'], .beq ['L', 'F', 'D'], .bne ['L', 'F', 'D'],
      .bmi ['L', 'F', 'D'], .bpl ['L', 'F', 'D'], .bcc ['L', 'F', 'D'], .bcs ['L', 'F', 'D'], .bvc ['L', 'F', 'D'],
      .bvs ['L', 'F', 'D'], .jsr ['L', 'F', 'E', '0', '4'], .bsr ['L', 'F', 'D'], .rts].map some := by
  decide +kernel

theorem test_decode_system :
    [[0x3F], [0x12]].map decodesTo =
      [.swi, .nop].map some := by
  decide +kernel

/-- A word of the opcode table, numbered from its first byte: `10 BE 00 30`, `3F`, `BD` with a zero address, END. -/
theorem test_table_words :
    [decodeTableWord 32 0x3000BE10, decodeTableWord 8 0x3F, decodeTableWord 8 0xBD, decodeTableWord 0 0] =
      [some (.ldyExtended 0x0030), some .swi, some (.jsr ['L', '0', '0', '0', '0']), some .endProgram] := by
  decide +kernel

/-- 30_encoding.md R154: bytes that begin with no opcode string; a page-2 prefix with no row; a truncated operand. -/
theorem test_decode_refused :
    [[0x3D], [0x10, 0x3F], [0x86], [], [0x1F, 0xF8]].map decodesTo = [none, none, none, none, none] := by
  decide +kernel

/-! ## Assembly -/

/-- 95_test_vectors.md T2.1, its first lines and its register moves: comment, case, tab, carriage return, offsets. -/
theorem test_assemble_t2_1 :
    (assembled "; demo\nstart: lda #$1f   ; comment\n\tLDX\t$0120\r\n  LDA -5,Y\n TFR x,a\n  BNE start\n  JMP start\n END").progStore.map
        (·.2) =
      [0x86, 0x1F, 0xBE, 0x01, 0x20, 0xA6, 0xA4, 0xFB, 0x1F, 0x18, 0x26, 0xF4, 0x7E, 0xFE, 0x00] := by
  decide +kernel

/-- 95_test_vectors.md T2.4: one text for each check of 30_encoding.md R130, and for R114, R115, R132 and R133. -/
theorem test_assembly_errors :
    ["FOO\nEND", "STA #$10\nEND", "TFR\nEND", "TFR A,CC\nEND", "TFR A,Q\nEND", "BRA NOWHERE\nEND", "LDA 5,Q\nEND",
      "LDA 200,X\nEND", "LDA #$100\nEND", "LDA $G\nEND", "LDA $12345\nEND", "LDA 5, X\nEND", "L: NOP\nL: NOP\nEND",
      ": NOP\nEND", "BRA NOWHERE\nL: NOP\nL: END", "NOP\nEND\nNOP"].map (fun x => (assembled x).lastError) =
    [some (.syntaxError, some 1), some (.unsupportedEncoding, some 1), some (.syntaxError, some 1),
      some (.syntaxError, some 1), some (.unknownRegister, some 1), some (.labelNotFound, some 1),
      some (.invalidIndexedMode, some 1), some (.syntaxError, some 1), some (.syntaxError, some 1),
      some (.syntaxError, some 1), some (.syntaxError, some 1), some (.syntaxError, some 1),
      some (.syntaxError, some 2), some (.syntaxError, some 1), some (.syntaxError, some 3),
      some (.missingEnd, none)] := by
  decide +kernel

/-! ## One step -/

/-- 95_test_vectors.md T3.1. -/
theorem test_lda_t3_1 :
    (ran "LDA #$10\nEND").map (fun t => (t.a, flags t, t.pc, t.line)) =
      some (0x10, [false, false, false, false, false], 0xFE02, 1) := by decide +kernel

/-- 95_test_vectors.md T3.7. -/
theorem test_lda_t3_7 :
    (ran "LDA -1,Y\nEND" (fun s => { s with y := 0x0000, dataStore := [(0xFFFF, 0x9A)] })).map (fun t => (t.a, flags t, t.pc, t.line)) =
      some (0x9A, [true, false, false, false, false], 0xFE03, 1) := by decide +kernel

/-- 95_test_vectors.md T3.4. -/
theorem test_ldb_t3_4 :
    (ran "LDB $20\nEND" (fun s => { s with dataStore := [(0x0020, 0x7F)] })).map (fun t => (t.b, flags t, t.pc, t.line)) =
      some (0x7F, [false, false, false, false, false], 0xFE02, 1) := by decide +kernel

/-- 95_test_vectors.md T3.6. -/
theorem test_ldb_t3_6 :
    (ran "LDB ,X\nEND" (fun s => { s with x := 0x0300, dataStore := [(0x0300, 0x01)] })).map (fun t => (t.b, flags t, t.pc, t.line)) =
      some (0x01, [false, false, false, false, false], 0xFE03, 1) := by decide +kernel

/-- 95_test_vectors.md T3.10. -/
theorem test_ldx_t3_10 :
    (ran "LDX #$10\nEND" id { Config.defaults with load16NBit := .bit15 }).map (fun t => (t.x, flags t, t.pc, t.line)) =
      some (0x0010, [false, false, false, false, false], 0xFE03, 1) := by decide +kernel

/-- 95_test_vectors.md T3.16. -/
theorem test_ldx_t3_16 :
    (ran "LDX $FFFF\nEND" (fun s => { s with dataStore := [(0x0000, 0xCD), (0xFFFF, 0xAB)] }) { Config.defaults with load16NBit := .bit15 }).map (fun t => (t.x, flags t, t.pc, t.line)) =
      some (0xABCD, [true, false, false, false, false], 0xFE03, 1) := by decide +kernel

/-- 95_test_vectors.md T3.11. -/
theorem test_ldy_t3_11 :
    (ran "LDY #$8000\nEND" id { Config.defaults with load16NBit := .bit15 }).map (fun t => (t.y, flags t, t.pc, t.line)) =
      some (0x8000, [true, false, false, false, false], 0xFE04, 1) := by decide +kernel

/-- 95_test_vectors.md T3.12. -/
theorem test_ldy_t3_12 :
    (ran "LDY #$8000\nEND" id { Config.defaults with load16NBit := .bit7 }).map (fun t => (t.y, flags t, t.pc, t.line)) =
      some (0x8000, [false, false, false, false, false], 0xFE04, 1) := by decide +kernel

/-- 95_test_vectors.md T3.15. -/
theorem test_ldu_t3_15 :
    (ran "LDU $40\nEND" (fun s => { s with dataStore := [] }) { Config.defaults with load16NBit := .bit15 }).map (fun t => (t.u, flags t, t.pc, t.line)) =
      some (0x0000, [false, true, false, false, false], 0xFE02, 1) := by decide +kernel

/-- 95_test_vectors.md T3.13. -/
theorem test_lds_t3_13 :
    (ran "LDS #$0080\nEND" id { Config.defaults with load16NBit := .bit7 }).map (fun t => (t.s, flags t, t.pc, t.line)) =
      some (0x0080, [true, false, false, false, false], 0xFE04, 1) := by decide +kernel

/-- 95_test_vectors.md T3.17. -/
theorem test_sta_t3_17 :
    (ran "STA $10\nEND" (fun s => { s with a := 0x5A, n := true })).map (fun t => (t.dataStore.read 0x0010, flags t, t.pc, t.line)) =
      some (0x5A, [true, true, false, false, false], 0xFE02, 1) := by decide +kernel

/-- 95_test_vectors.md T3.18. -/
theorem test_stb_t3_18 :
    (ran "STB $1000\nEND" (fun s => { s with b := 0x00, dataStore := [(0x1000, 0xFF)] })).map (fun t => (t.dataStore.read 0x1000, flags t, t.pc, t.line)) =
      some (0x00, [false, true, false, false, false], 0xFE03, 1) := by decide +kernel

/-- 95_test_vectors.md T3.19. -/
theorem test_stx_t3_19 :
    (ran "STX $30\nEND" (fun s => { s with x := 0xBEEF })).map (fun t => (t.dataStore.read 0x0030, t.dataStore.read 0x0031, flags t, t.pc, t.line)) =
      some (0xBE, 0xEF, [false, true, false, false, false], 0xFE02, 1) := by decide +kernel

/-- 95_test_vectors.md T3.20. -/
theorem test_sty_t3_20 :
    (ran "STY 2,X\nEND" (fun s => { s with x := 0x0100, y := 0x1234 })).map (fun t => (t.dataStore.read 0x0102, t.dataStore.read 0x0103, flags t, t.pc, t.line)) =
      some (0x12, 0x34, [false, true, false, false, false], 0xFE04, 1) := by decide +kernel

/-- 95_test_vectors.md T3.21. -/
theorem test_stu_t3_21 :
    (ran "STU $FFFF\nEND" (fun s => { s with u := 0xA1B2 })).map (fun t => (t.dataStore.read 0xFFFF, t.dataStore.read 0x0000, flags t, t.pc, t.line)) =
      some (0xA1, 0xB2, [false, true, false, false, false], 0xFE03, 1) := by decide +kernel

/-- 95_test_vectors.md T3.22. -/
theorem test_sts_t3_22 :
    (ran "STS -2,S\nEND" (fun s => { s with s := 0x0200 })).map (fun t => (t.dataStore.read 0x01FE, t.dataStore.read 0x01FF, flags t, t.pc, t.line)) =
      some (0x02, 0x00, [false, true, false, false, false], 0xFE04, 1) := by decide +kernel

/-- 95_test_vectors.md T4.1. -/
theorem test_adda_t4_1 :
    (ran "ADDA #$FF\nEND" (fun s => { s with a := 0x01 })).map (fun t => (t.a, flags t, t.pc, t.line)) =
      some (0x00, [false, true, false, true, false], 0xFE02, 1) := by decide +kernel

/-- 95_test_vectors.md T4.3. -/
theorem test_adda_t4_3 :
    (ran "ADDA #$80\nEND" (fun s => { s with a := 0x80 })).map (fun t => (t.a, flags t, t.pc, t.line)) =
      some (0x00, [false, true, true, true, false], 0xFE02, 1) := by decide +kernel

/-- 95_test_vectors.md T4.4. -/
theorem test_addb_t4_4 :
    (ran "ADDB #$10\nEND" (fun s => { s with b := 0x20, c := true, v := true })).map (fun t => (t.b, flags t, t.pc, t.line)) =
      some (0x30, [false, false, false, false, false], 0xFE02, 1) := by decide +kernel

/-- 95_test_vectors.md T4.6. -/
theorem test_addb_t4_6 :
    (ran "ADDB ,X\nEND" (fun s => { s with b := 0xF0, x := 0x0010, dataStore := [(0x0010, 0x20)] })).map (fun t => (t.b, flags t, t.pc, t.line)) =
      some (0x10, [false, false, false, true, false], 0xFE03, 1) := by decide +kernel

/-- 95_test_vectors.md T4.7. -/
theorem test_suba_t4_7 :
    (ran "SUBA #$01\nEND" (fun s => { s with a := 0x00 })).map (fun t => (t.a, flags t, t.pc, t.line)) =
      some (0xFF, [true, false, false, true, false], 0xFE02, 1) := by decide +kernel

/-- 95_test_vectors.md T4.8. -/
theorem test_suba_t4_8 :
    (ran "SUBA #$01\nEND" (fun s => { s with a := 0x80 })).map (fun t => (t.a, flags t, t.pc, t.line)) =
      some (0x7F, [false, false, true, false, false], 0xFE02, 1) := by decide +kernel

/-- 95_test_vectors.md T4.9. -/
theorem test_subb_t4_9 :
    (ran "SUBB #$FF\nEND" (fun s => { s with b := 0x7F })).map (fun t => (t.b, flags t, t.pc, t.line)) =
      some (0x80, [true, false, true, true, false], 0xFE02, 1) := by decide +kernel

/-- 95_test_vectors.md T4.10. -/
theorem test_subb_t4_10 :
    (ran "SUBB #$05\nEND" (fun s => { s with b := 0x05 })).map (fun t => (t.b, flags t, t.pc, t.line)) =
      some (0x00, [false, true, false, false, false], 0xFE02, 1) := by decide +kernel

/-- 95_test_vectors.md T4.15. -/
theorem test_cmpa_t4_15 :
    (ran "CMPA $40\nEND" (fun s => { s with a := 0x05, dataStore := [(0x0040, 0x05)] })).map (fun t => (flags t, t.pc, t.line)) =
      some ([false, true, false, false, false], 0xFE02, 1) := by decide +kernel

/-- 95_test_vectors.md T4.18. -/
theorem test_cmpa_t4_18 :
    (ran "CMPA $FE00\nEND" (fun s => { s with a := 0xB1 }) { Config.defaults with cmpOperandStore := .program }).map (fun t => (flags t, t.pc, t.line)) =
      some ([false, true, false, false, false], 0xFE03, 1) := by decide +kernel

/-- 95_test_vectors.md T4.14. -/
theorem test_cmpb_t4_14 :
    (ran "CMPB #$01\nEND" (fun s => { s with b := 0x80 })).map (fun t => (flags t, t.pc, t.line)) =
      some ([false, false, true, false, false], 0xFE02, 1) := by decide +kernel

/-- 95_test_vectors.md T4.16. -/
theorem test_cmpb_t4_16 :
    (ran "CMPB 1,Y\nEND" (fun s => { s with b := 0x00, y := 0x3000, dataStore := [(0x3001, 0x01)] })).map (fun t => (flags t, t.pc, t.line)) =
      some ([true, false, false, true, false], 0xFE03, 1) := by decide +kernel

/-- 95_test_vectors.md T6.1. -/
theorem test_inca_t6_1 :
    (ran "INCA\nEND" (fun s => { s with a := 0x7F, c := true })).map (fun t => (t.a, flags t, t.pc, t.line)) =
      some (0x80, [true, false, true, true, false], 0xFE01, 1) := by decide +kernel

/-- 95_test_vectors.md T6.2. -/
theorem test_inca_t6_2 :
    (ran "INCA\nEND" (fun s => { s with a := 0xFF, v := true })).map (fun t => (t.a, flags t, t.pc, t.line)) =
      some (0x00, [false, true, false, false, false], 0xFE01, 1) := by decide +kernel

/-- 95_test_vectors.md T6.3. -/
theorem test_incb_t6_3 :
    (ran "INCB\nEND" (fun s => { s with b := 0x00 })).map (fun t => (t.b, flags t, t.pc, t.line)) =
      some (0x01, [false, false, false, false, false], 0xFE01, 1) := by decide +kernel

/-- 95_test_vectors.md T6.4. -/
theorem test_deca_t6_4 :
    (ran "DECA\nEND" (fun s => { s with a := 0x80 })).map (fun t => (t.a, flags t, t.pc, t.line)) =
      some (0x7F, [false, false, true, false, false], 0xFE01, 1) := by decide +kernel

/-- 95_test_vectors.md T6.5. -/
theorem test_deca_t6_5 :
    (ran "DECA\nEND" (fun s => { s with a := 0x01, v := true })).map (fun t => (t.a, flags t, t.pc, t.line)) =
      some (0x00, [false, true, false, false, false], 0xFE01, 1) := by decide +kernel

/-- 95_test_vectors.md T6.6. -/
theorem test_decb_t6_6 :
    (ran "DECB\nEND" (fun s => { s with b := 0x00 })).map (fun t => (t.b, flags t, t.pc, t.line)) =
      some (0xFF, [true, false, false, false, false], 0xFE01, 1) := by decide +kernel

/-- 95_test_vectors.md T6.7. -/
theorem test_lsla_t6_7 :
    (ran "LSLA\nEND" (fun s => { s with a := 0x81 })).map (fun t => (t.a, flags t, t.pc, t.line)) =
      some (0x02, [false, false, false, true, false], 0xFE01, 1) := by decide +kernel

/-- 95_test_vectors.md T6.8. -/
theorem test_lslb_t6_8 :
    (ran "LSLB\nEND" (fun s => { s with b := 0x40, v := true })).map (fun t => (t.b, flags t, t.pc, t.line)) =
      some (0x80, [true, false, true, false, false], 0xFE01, 1) := by decide +kernel

/-- 95_test_vectors.md T6.9. -/
theorem test_lsra_t6_9 :
    (ran "LSRA\nEND" (fun s => { s with a := 0x01 })).map (fun t => (t.a, flags t, t.pc, t.line)) =
      some (0x00, [false, true, false, true, false], 0xFE01, 1) := by decide +kernel

/-- 95_test_vectors.md T6.10. -/
theorem test_lsrb_t6_10 :
    (ran "LSRB\nEND" (fun s => { s with b := 0x80, c := true })).map (fun t => (t.b, flags t, t.pc, t.line)) =
      some (0x40, [false, false, false, false, false], 0xFE01, 1) := by decide +kernel

/-- 95_test_vectors.md T6.11. -/
theorem test_rola_t6_11 :
    (ran "ROLA\nEND" (fun s => { s with a := 0x80, c := true })).map (fun t => (t.a, flags t, t.pc, t.line)) =
      some (0x01, [false, false, false, true, false], 0xFE01, 1) := by decide +kernel

/-- 95_test_vectors.md T6.12. -/
theorem test_rolb_t6_12 :
    (ran "ROLB\nEND" (fun s => { s with b := 0x40, c := false })).map (fun t => (t.b, flags t, t.pc, t.line)) =
      some (0x80, [true, false, false, false, false], 0xFE01, 1) := by decide +kernel

/-- 95_test_vectors.md T6.13. -/
theorem test_rora_t6_13 :
    (ran "RORA\nEND" (fun s => { s with a := 0x01, c := true })).map (fun t => (t.a, flags t, t.pc, t.line)) =
      some (0x80, [true, false, false, true, false], 0xFE01, 1) := by decide +kernel

/-- 95_test_vectors.md T6.15. -/
theorem test_rora_t6_15 :
    (ran "RORA\nEND" (fun s => { s with a := 0x00, c := false })).map (fun t => (t.a, flags t, t.pc, t.line)) =
      some (0x00, [false, true, false, false, false], 0xFE01, 1) := by decide +kernel

/-- 95_test_vectors.md T6.14. -/
theorem test_rorb_t6_14 :
    (ran "RORB\nEND" (fun s => { s with b := 0x02, c := false })).map (fun t => (t.b, flags t, t.pc, t.line)) =
      some (0x01, [false, false, false, false, false], 0xFE01, 1) := by decide +kernel

/-- 95_test_vectors.md T7.1. -/
theorem test_anda_t7_1 :
    (ran "ANDA #$0F\nEND" (fun s => { s with a := 0xF5, v := true, c := true })).map (fun t => (t.a, flags t, t.pc, t.line)) =
      some (0x05, [false, false, false, true, false], 0xFE02, 1) := by decide +kernel

/-- 95_test_vectors.md T7.3. -/
theorem test_anda_t7_3 :
    (ran "ANDA $10\nEND" (fun s => { s with a := 0xFF, dataStore := [(0x0010, 0x80)] })).map (fun t => (t.a, flags t, t.pc, t.line)) =
      some (0x80, [true, false, false, false, false], 0xFE02, 1) := by decide +kernel

/-- 95_test_vectors.md T7.2. -/
theorem test_andb_t7_2 :
    (ran "ANDB #$80\nEND" (fun s => { s with b := 0x7F })).map (fun t => (t.b, flags t, t.pc, t.line)) =
      some (0x00, [false, true, false, false, false], 0xFE02, 1) := by decide +kernel

/-- 95_test_vectors.md T7.4. -/
theorem test_ora_t7_4 :
    (ran "ORA #$80\nEND" (fun s => { s with a := 0x01 })).map (fun t => (t.a, flags t, t.pc, t.line)) =
      some (0x81, [true, false, false, false, false], 0xFE02, 1) := by decide +kernel

/-- 95_test_vectors.md T7.5. -/
theorem test_orb_t7_5 :
    (ran "ORB #$00\nEND" (fun s => { s with b := 0x00 })).map (fun t => (t.b, flags t, t.pc, t.line)) =
      some (0x00, [false, true, false, false, false], 0xFE02, 1) := by decide +kernel

/-- 95_test_vectors.md T7.6. -/
theorem test_eora_t7_6 :
    (ran "EORA #$FF\nEND" (fun s => { s with a := 0x0F })).map (fun t => (t.a, flags t, t.pc, t.line)) =
      some (0xF0, [true, false, false, false, false], 0xFE02, 1) := by decide +kernel

/-- 95_test_vectors.md T7.8. -/
theorem test_eora_t7_8 :
    (ran "EORA ,X\nEND" (fun s => { s with a := 0x55, x := 0x0020, dataStore := [(0x0020, 0x55)] })).map (fun t => (t.a, flags t, t.pc, t.line)) =
      some (0x00, [false, true, false, false, false], 0xFE03, 1) := by decide +kernel

/-- 95_test_vectors.md T7.7. -/
theorem test_eorb_t7_7 :
    (ran "EORB #$AA\nEND" (fun s => { s with b := 0xAA })).map (fun t => (t.b, flags t, t.pc, t.line)) =
      some (0x00, [false, true, false, false, false], 0xFE02, 1) := by decide +kernel

/-- 95_test_vectors.md T7.9. -/
theorem test_clra_t7_9 :
    (ran "CLRA\nEND" (fun s => { s with a := 0x80, n := true, z := false, v := true, c := true })).map (fun t => (t.a, flags t, t.pc, t.line)) =
      some (0x00, [false, true, true, false, false], 0xFE01, 1) := by decide +kernel

/-- 95_test_vectors.md T7.10. -/
theorem test_clrb_t7_10 :
    (ran "CLRB\nEND" (fun s => { s with b := 0x01 })).map (fun t => (t.b, flags t, t.pc, t.line)) =
      some (0x00, [false, true, false, false, false], 0xFE01, 1) := by decide +kernel

/-- 95_test_vectors.md T7.12. -/
theorem test_coma_t7_12 :
    (ran "COMA\nEND" (fun s => { s with a := 0xFF, v := true })).map (fun t => (t.a, flags t, t.pc, t.line)) =
      some (0x00, [false, true, true, true, false], 0xFE01, 1) := by decide +kernel

/-- 95_test_vectors.md T7.14. -/
theorem test_coma_t7_14 :
    (ran "COMA\nEND" (fun s => { s with a := 0x00 }) { Config.defaults with comCarry := false }).map (fun t => (t.a, flags t, t.pc, t.line)) =
      some (0xFF, [true, false, false, false, false], 0xFE01, 1) := by decide +kernel

/-- 95_test_vectors.md T7.13. -/
theorem test_comb_t7_13 :
    (ran "COMB\nEND" (fun s => { s with b := 0x55 })).map (fun t => (t.b, flags t, t.pc, t.line)) =
      some (0xAA, [true, false, false, true, false], 0xFE01, 1) := by decide +kernel

/-- 95_test_vectors.md T7.16. -/
theorem test_nega_t7_16 :
    (ran "NEGA\nEND" (fun s => { s with a := 0x80 })).map (fun t => (t.a, flags t, t.pc, t.line)) =
      some (0x80, [true, false, false, true, false], 0xFE01, 1) := by decide +kernel

/-- 95_test_vectors.md T7.17. -/
theorem test_nega_t7_17 :
    (ran "NEGA\nEND" (fun s => { s with a := 0x00, c := true })).map (fun t => (t.a, flags t, t.pc, t.line)) =
      some (0x00, [false, true, false, false, false], 0xFE01, 1) := by decide +kernel

/-- 95_test_vectors.md T7.18. -/
theorem test_negb_t7_18 :
    (ran "NEGB\nEND" (fun s => { s with b := 0xFF })).map (fun t => (t.b, flags t, t.pc, t.line)) =
      some (0x01, [false, false, false, true, false], 0xFE01, 1) := by decide +kernel

/-- 95_test_vectors.md T7.19. -/
theorem test_negb_t7_19 :
    (ran "NEGB\nEND" (fun s => { s with b := 0x7F, v := true })).map (fun t => (t.b, flags t, t.pc, t.line)) =
      some (0x81, [true, false, true, true, false], 0xFE01, 1) := by decide +kernel

/-- 95_test_vectors.md T8.6. -/
theorem test_tfr_t8_6 :
    (ran "TFR X,A\nEND" (fun s => { s with x := 0x1234 })).map (fun t => (t.a, t.pc, t.line)) =
      some (0x34, 0xFE02, 1) := by decide +kernel

/-- 95_test_vectors.md T8.10. -/
theorem test_tfr_t8_10 :
    (ran "TFR D,X\nEND" (fun s => { s with a := 0x12, b := 0x34 })).map (fun t => (t.pc, t.line, t.status)) =
      some (0xFE00, 0, .halted (.fault .unknownRegister)) := by decide +kernel

/-- 95_test_vectors.md T8.5. -/
theorem test_exg_t8_5 :
    (ran "EXG U,S\nEND" (fun s => { s with u := 0xAAAA, s := 0x5555 })).map (fun t => (t.u, t.s, t.pc, t.line)) =
      some (0x5555, 0xAAAA, 0xFE02, 1) := by decide +kernel

/-- 95_test_vectors.md T8.8. -/
theorem test_exg_t8_8 :
    (ran "EXG A,X\nEND" (fun s => { s with a := 0x12, x := 0x3456 })).map (fun t => (t.a, t.x, t.pc, t.line)) =
      some (0x56, 0x0012, 0xFE02, 1) := by decide +kernel

/-- 95_test_vectors.md T5.2. -/
theorem test_jmp_t5_2 :
    (ran "JMP DONE\nNOP\nDONE: END").map (fun t => (t.pc, t.line)) = some (0xFE04, 2) := by decide +kernel

/-- 95_test_vectors.md T5.1, its second step. -/
theorem test_bra_t5_1 :
    (ranFor 2 "B: NOP\nBRA B\nEND").map (fun t => (t.pc, t.line)) = some (0xFE00, 0) := by decide +kernel

/-- 95_test_vectors.md T5.16 to T5.31, taken. -/
theorem test_branches_taken :
    [("BEQ", { State.reset with z := true }), ("BNE", { State.reset with z := false }),
      ("BMI", { State.reset with n := true }), ("BPL", { State.reset with n := false }),
      ("BCC", { State.reset with c := false }), ("BCS", { State.reset with c := true }),
      ("BVC", { State.reset with v := false }), ("BVS", { State.reset with v := true })].map
        (fun x => (ran (x.1 ++ " T\nNOP\nT: END") (fun s => { s with n := x.2.n, z := x.2.z, v := x.2.v, c := x.2.c })).map
          (fun t => (t.pc, t.line))) =
      List.replicate 8 (some (0xFE03, 2)) := by decide +kernel

/-- 95_test_vectors.md T5.16 to T5.31, not taken. -/
theorem test_branches_not_taken :
    [("BEQ", { State.reset with z := false }), ("BNE", { State.reset with z := true }),
      ("BMI", { State.reset with n := false }), ("BPL", { State.reset with n := true }),
      ("BCC", { State.reset with c := true }), ("BCS", { State.reset with c := false }),
      ("BVC", { State.reset with v := true }), ("BVS", { State.reset with v := false })].map
        (fun x => (ran (x.1 ++ " T\nNOP\nT: END") (fun s => { s with n := x.2.n, z := x.2.z, v := x.2.v, c := x.2.c })).map
          (fun t => (t.pc, t.line))) =
      List.replicate 8 (some (0xFE02, 1)) := by decide +kernel

/-- 95_test_vectors.md T5.10. -/
theorem test_jsr_t5_10 :
    (ran "JSR S1\nSWI\nS1: RTS\nEND").map (fun t => (t.pc, t.line, t.callStack)) = some (0xFE04, 2, [0xFE03]) := by
  decide +kernel

/-- 95_test_vectors.md T5.13. -/
theorem test_bsr_t5_13 :
    (ran "BSR S1\nSWI\nS1: RTS\nEND").map (fun t => (t.pc, t.line, t.callStack)) = some (0xFE03, 2, [0xFE02]) := by
  decide +kernel

/-- 95_test_vectors.md T5.14: the third call finds the stack of two full. -/
theorem test_bsr_t5_14 :
    (ranFor 3 "L: BSR L\nEND" { Config.defaults with callStackDepth := some 2 }).map
        (fun t => (t.pc, t.line, t.callStack, t.status)) =
      some (0xFE00, 0, [0xFE02, 0xFE02], .halted (.fault .callStackOverflow)) := by
  decide +kernel

/-- 95_test_vectors.md T5.11. -/
theorem test_rts_t5_11 :
    (ranFor 2 "JSR S1\nSWI\nS1: RTS\nEND").map (fun t => (t.pc, t.line, t.callStack)) = some (0xFE03, 1, []) := by
  decide +kernel

/-- 95_test_vectors.md T5.7. -/
theorem test_rts_t5_7 :
    (ran "RTS\nEND").map (fun t => (t.pc, t.line, t.status)) = some (0xFE00, 0, .halted .returnEmpty) := by
  decide +kernel

/-- 95_test_vectors.md T5.8. -/
theorem test_swi_t5_8 :
    (ran "SWI\nEND").map (fun t => (t.pc, t.line, t.status)) = some (0xFE00, 0, .halted .swi) := by decide +kernel

/-- 95_test_vectors.md T5.9. -/
theorem test_end_t5_9 :
    (ran "END").map (fun t => (t.pc, t.line, t.status)) = some (0xFE00, 0, .halted .programEnd) := by decide +kernel

/-- 47_system.md R422, its example. -/
theorem test_nop :
    (ran "NOP\nEND").map (fun t => (t.pc, t.line, flags t, t.status)) =
      some (0xFE01, 1, [false, true, false, false, false], .running) := by decide +kernel

/-- 95_test_vectors.md T5.4: a branch past END, a blank line, and no line left. -/
theorem test_exhausted_t5_4 :
    (ranFor 3 "BRA L\nEND\nL:").map (fun t => (t.pc, t.line, t.status)) = some (0xFE02, 3, .halted .exhausted) := by
  decide +kernel

/-! ## Witnesses

For each statement with hypotheses, a concrete state and operands that meet them, clause by clause. -/

theorem ok_of_toOption {ε α : Type} {x : Except ε α} {a : α} (h : x.toOption = some a) : x = .ok a := by
  cases x with
  | ok b => exact congrArg _ (Option.some.inj h)
  | error e => cases h

/-- A program with a call, a branch and a move that cannot be made. -/
def demoText : Text := "JSR S\nTFR D,X\n\nS: BEQ S\nRTS\nEND\n".toList

/-- The defaults, with the open parameter at one of its values. -/
def demoParams : Params := { Config.defaults with load16NBit := .bit15 }

def demo : Assembled where
  stream :=
    [.instr ['J', 'S', 'R'] (some ['S']), .instr ['T', 'F', 'R'] (some ['D', ',', 'X']), .blank,
      .instr ['B', 'E', 'Q'] (some ['S']), .instr ['R', 'T', 'S'] none, .instr ['E', 'N', 'D'] none, .blank]
  labels := [(['S'], 3)]
  image :=
    [(0xFE00, 0xBD), (0xFE01, 0xFE), (0xFE02, 0x05), (0xFE03, 0x1F), (0xFE04, 0x01), (0xFE05, 0x27), (0xFE06, 0xFE),
      (0xFE07, 0x39)]

/-- For the statements about assembled programs: AssembledEndsWithEnd, AssembledFits, AssembledLinesDecode,
LabelsNameDeclaringLines, EmissionPlacesEncodings, ImageDecodesBack, AddressesRise and StepAssembles. -/
theorem witness_assembled : assembleText demoParams demoText = .ok demo :=
  ok_of_toOption (by decide +kernel)

/-- Their clauses on one line: line 3 holds BEQ, is declared by `S:`, and is followed by other lines. -/
theorem witness_assembled_line :
    demo.stream[3]? = some (.instr ['B', 'E', 'Q'] (some ['S'])) ∧
      decodeLine demoParams ['B', 'E', 'Q'] (some ['S']) = .ok (.beq ['S']) ∧
      (['B', 'E', 'Q'] : Text) ≠ Mnemonic.text .endProgram ∧ demo.labels.lookup ['S'] = some 3 :=
  ⟨rfl, ok_of_toOption (by decide +kernel), by decide, rfl⟩

/-- AssembledEndsWithEnd, its second clause: valid lines, and no END. -/
theorem witness_no_end :
    pass1 "NOP".toList = .ok ([.instr ['N', 'O', 'P'] none], []) ∧
      pass2From Config.defaults [] 0 [.instr ['N', 'O', 'P'] none] = .ok () ∧
      ¬ ∃ pre post, [Line.instr ['N', 'O', 'P'] none] = pre ++ .instr (Mnemonic.text .endProgram) none :: post ∧
        ∀ ln ∈ post, ln = .blank := by
  refine ⟨ok_of_toOption (by decide +kernel), ok_of_toOption (by decide +kernel), ?_⟩
  rintro ⟨pre, post, h, _⟩
  have : Line.instr (Mnemonic.text .endProgram) none ∈ [Line.instr ['N', 'O', 'P'] none] := by rw [h]; simp
  exact absurd this (by decide)

/-- AssembledFits, its second clause, at its boundary: NOP fills the one byte and END lies above `PROGRAM_TOP`. -/
theorem witness_too_large :
    pass1 "NOP\nEND".toList = .ok ([.instr ['N', 'O', 'P'] none, .instr ['E', 'N', 'D'] none], []) ∧
      pass2From { Config.defaults with programTop := 0xFE00 } [] 0
        [.instr ['N', 'O', 'P'] none, .instr ['E', 'N', 'D'] none] = .ok () ∧
      endsWithEnd [.instr ['N', 'O', 'P'] none, .instr ['E', 'N', 'D'] none] = true ∧
      lineAddr { Config.defaults with programTop := 0xFE00 }
        [.instr ['N', 'O', 'P'] none, .instr ['E', 'N', 'D'] none] 1 = 0xFE01 :=
  ⟨ok_of_toOption (by decide +kernel), ok_of_toOption (by decide +kernel), by decide +kernel, by decide +kernel⟩

/-- FirstFailingLineReported, its first clause: line 1 declares the label of line 0 again, and line 0 has no error. -/
theorem witness_pass_one_error :
    PassOneError "A: NOP\nA: END".toList 1 ∧ ∀ j, j < 1 → ¬ PassOneError "A: NOP\nA: END".toList j := by
  have h0 : declaredLabel "A: NOP\nA: END".toList 0 = some ['A'] := by decide +kernel
  have h1 : declaredLabel "A: NOP\nA: END".toList 1 = some ['A'] := by decide +kernel
  have hr : (splitLines "A: NOP\nA: END".toList)[0]? = some "A: NOP".toList := by decide +kernel
  refine ⟨.inl ⟨['A'], h1, .inr (.inr ⟨0, Nat.zero_lt_one, h0⟩)⟩, fun j hj => ?_⟩
  obtain rfl : j = 0 := by omega
  rintro (⟨l, hl, h | ⟨c, hc, hs⟩ | ⟨k, hk, _⟩⟩ | ⟨raw, hraw, h3⟩)
  · rw [h0] at hl; cases hl; cases h
  · rw [h0] at hl; cases hl
    obtain rfl : c = 'A' := by simpa using hc
    cases hs
  · exact absurd hk (Nat.not_lt_zero k)
  · rw [hr] at hraw; cases hraw
    exact absurd h3 (by decide +kernel)

/-- FirstFailingLineReported, its second clause: the empty text. -/
theorem witness_no_pass_one_error : ∀ k, ¬ PassOneError [] k := by
  rintro (_ | k)
  · rintro (⟨l, hl, _⟩ | ⟨raw, hraw, h3⟩)
    · cases hl
    · cases hraw
      exact absurd h3 (by decide)
  · rintro (⟨l, hl, _⟩ | ⟨raw, hraw, _⟩)
    · cases hl
    · cases hraw

/-- FirstFailingLineReported, its other clauses: a pass-1 error; a line that fails validation after one that does not. -/
theorem witness_failing_lines :
    pass1 ": NOP".toList = .error (.syntaxError, some 1) ∧
      pass1 "NOP\nFOO".toList = .ok ([.instr ['N', 'O', 'P'] none, .instr ['F', 'O', 'O'] none], []) ∧
      validateLine Config.defaults [] (.instr ['N', 'O', 'P'] none) = .ok () ∧
      validateLine Config.defaults [] (.instr ['F', 'O', 'O'] none) = .error .syntaxError := by
  refine ⟨?_, ok_of_toOption (by decide +kernel), ok_of_toOption (by decide +kernel), ?_⟩ <;> rfl

/-- StepAssembles, its second clause: the empty text. -/
theorem witness_assembly_error :
    State.reset.status = .notAssembled ∧
      assembleText State.reset.params State.reset.text = .error (.missingEnd, none) := ⟨rfl, rfl⟩

/-- CaseIsIgnored. -/
theorem witness_ascii : ∀ c ∈ "loop: lda #$1f ; Count\n\tend".toList, c.toNat < 128 := by
  have h : ("loop: lda #$1f ; Count\n\tend".toList.all fun c => decide (c.toNat < 128)) = true := by decide +kernel
  exact fun c hc => of_decide_eq_true (List.all_eq_true.mp h c hc)

/-- DecodeInvertsEncode: any operand value, the boundary values among them. -/
theorem witness_decode_encode :
    Instr.label? (.ldsImmediate (.word 0xFFFF)) = none ∧
      (∀ ii, Instr.operand (.ldsImmediate (.word 0xFFFF)) ≠ .imm16 (.byte ii)) ∧
      Instr.label? (.staIndexed .s 0x80) = none ∧ (∀ ii, Instr.operand (.staIndexed .s 0x80) ≠ .imm16 (.byte ii)) := by
  refine ⟨rfl, ?_, rfl, ?_⟩ <;> intro ii h <;> cases h

/-- DecodeAtReturnsRow: a page-2 instruction whose last bytes wrap to address 0; an empty address; a row found. -/
theorem witness_decode_at :
    (∀ k b, (encode (fun _ => 0) (0xFFFE : Word).toNat (.ldyExtended 0x0030))[k]? = some b →
      ProgStore.byte? [(0x0000, 0x00), (0x0001, 0x30), (0xFFFE, 0x10), (0xFFFF, 0xBE)]
        ((0xFFFE : Word) + BitVec.ofNat 16 k) = some b) ∧
    ProgStore.byte? [] 0xFFFF = none ∧
    ProgStore.decodeAt Config.defaults [(0xFFFF, 0x12)] 0xFFFF = some (.nop, .inherent, 1) := by
  refine ⟨?_, rfl, by decide +kernel⟩
  intro k b h
  match k, h with
  | 0, h | 1, h | 2, h | 3, h => rw [← h]; decide +kernel
  | k + 4, h => cases h

/-- EncodeFollowsFormats: an operand of each kind. -/
theorem witness_operands :
    Instr.operand (.ldaIndexed .u 0xFF) = .mem (.indexed .u 0xFF) ∧ Instr.operand (.exg .b .s) = .pair .b .s ∧
      (Instr.operand (.bvs ['L']) = .label ['L'] ∧ Instr.mnemonic (.bvs ['L']) ≠ .jmp ∧
        Instr.mnemonic (.bvs ['L']) ≠ .jsr) ∧
      Instr.operand (.jsr ['L']) = .label ['L'] ∧ Instr.mnemonic (.jsr ['L']) = .jsr := by
  decide

/-- LineTextRoundTrip: well-formed instructions, with a label and with a one-byte 16-bit immediate. -/
theorem witness_well_formed :
    Instr.wellFormed Config.defaults (.jsr ['S', '_', '1']) = true ∧
      Instr.wellFormed { Config.defaults with immSizeRule := .literalDigits } (.ldxImmediate (.byte 0xFF)) = true := by
  decide

/-- IndexedOffsets, at the boundaries of its ranges (95_test_vectors.md T2.2, T2.4; the refusals are those of R125). -/
theorem witness_offsets :
    [parseOffset "127".toList, parseOffset "-128".toList, parseOffset "$F".toList, parseOffset "$FF".toList] =
        [some 0x7F, some 0x80, some 0x0F, some 0xFF] ∧
      ["128", "+128", "-129", "$100", "$", "+", "-", "5H", "--1"].all (fun t => (parseOffset t.toList).isNone) = true ∧
      ',' ∉ "-129".toList := by decide +kernel

/-! ### Of the step -/

/-- A live state at line `k` of a two-line program. -/
def atLine (k : Nat) (lns : List Line) : State :=
  { State.reset with status := .ready, stream := lns, line := k }

/-- StepRunsDecodedInstruction. -/
theorem witness_step_runs :
    (atLine 0 [.instr ['N', 'O', 'P'] none]).Live ∧
      decodeLine (atLine 0 []).params ['N', 'O', 'P'] none = .ok .nop :=
  ⟨.inl rfl, ok_of_toOption (by decide +kernel)⟩

/-- FaultsNeedUnvalidatedLine: a line that validation refuses faults, and so does an unbound label. -/
theorem witness_faults :
    step (atLine 0 [.instr ['L', 'D', 'A'] none]) = .fault (.malformedLine .unsupportedEncoding) ∧
      step (atLine 0 [.instr ['J', 'M', 'P'] (some ['L'])]) = .fault (.unboundLabel ['L']) ∧
      (atLine 0 []).labels.lookup ['L'] = none ∧ (atLine 0 []).holds .eq = true ∧
      (atLine 0 []).params.callStackDepth ≠ some (atLine 0 []).callStack.length :=
  ⟨rfl, rfl, rfl, rfl, by decide⟩

/-- PlacedWordRuns. -/
theorem witness_placed_word :
    decodeTableWord 16 0xFD20 = some (.bra ['L', 'F', 'D']) ∧ State.reset.params.callInsns = .admitted := by
  decide +kernel

/-- StepWithoutInstruction: no line left, a blank line, an unknown mnemonic. -/
theorem witness_no_instruction :
    (atLine 1 [.blank]).stream.length ≤ (atLine 1 [.blank]).line ∧
      (atLine 0 [.blank]).stream[(atLine 0 [.blank]).line]? = some .blank ∧
      Mnemonic.ofText (atLine 0 []).params ['F', 'O', 'O'] = none ∧
      Mnemonic.ofText { Config.defaults with callInsns := .refused } ['J', 'S', 'R'] = none := by
  decide +kernel

/-- HaltedIsTerminal, and the halted cases of HostCommands. -/
theorem witness_halted : (State.reset.halt .swi).status = .halted .swi ∧ (State.reset.halt .swi).Halted := ⟨rfl, _, rfl⟩

/-- HostCommands, its other cases. -/
theorem witness_commands :
    State.reset.status = .notAssembled ∧ (atLine 0 []).status ≠ .notAssembled ∧ (atLine 0 []).Live ∧
      ¬ (atLine 0 []).Halted :=
  ⟨rfl, by decide, .inl rfl, fun ⟨_, h⟩ => by cases h⟩

/-- Whether a command that answers reports "execution complete". -/
def reports (o : Host.Outcome Reply Fault Refusal) : Option Bool :=
  match o with
  | .next r => some r.executionComplete
  | _ => none

/-- 40_execution_cycle.md R212: the step that reaches END reports nothing, and a step or a run after it does. -/
theorem test_execution_complete :
    [reports (command 9 .step (atLine 0 [Line.ofInstr .endProgram])),
      reports (command 9 .step (State.reset.halt .programEnd)), reports (command 9 .run (State.reset.halt .programEnd)),
      reports (command 9 .reset (State.reset.halt .programEnd))] = [some false, some true, some true, some false] := by
  decide +kernel

/-! ### Of the instructions -/

/-- StoreAccumulatorResult, StoreIndexResult, StoreThenLoadReturnsWord: a canonical store with both boundary
addresses. -/
theorem witness_store : Memory.wf [(0x0000, 0x01), (0xFFFF, 0xFF)] = true := by decide

/-- OverflowAndCarryAreExact. -/
theorem witness_overflow :
    exec (.arith .add .a (.imm 0x01)) { State.reset with a := 0x7F } =
        .next (State.advance (State.add { State.reset with a := 0x7F } .a (.imm 0x01)) (.addaImmediate 0x01)) ∧
      exec (.arith .sub .b (.imm 0x01)) State.reset =
        .next (State.advance (State.sub State.reset .b (.imm 0x01)) (.subbImmediate 0x01)) := ⟨rfl, rfl⟩

/-- TransferResult and ExchangeResult: D, mixed widths under `Fault`, and a move that is made. -/
theorem witness_moves :
    ((PairReg.d = .d ∨ PairReg.x = .d) ∧
      (pairIs8 .a ≠ pairIs8 .x ∧ ({ Config.defaults with mixedWidthMove := .fault } : Params).mixedWidthMove = .fault)) ∧
      ¬ (PairReg.a = .d ∨ PairReg.x = .d ∨ (pairIs8 .a ≠ pairIs8 .x ∧ State.reset.params.mixedWidthMove = .fault)) := by
  decide

/-- BranchResult and CallResult: a bound label, a condition that holds and one that does not, room on the stack and a
full stack. -/
theorem witness_transfers :
    ({ State.reset with labels := [(['L'], 0)] } : State).labels.lookup ['L'] = some 0 ∧
      State.reset.z = true ∧ (!State.reset.z) = false ∧
      State.reset.params.callStackDepth ≠ some State.reset.callStack.length ∧
      ({ Config.defaults with callStackDepth := some 0 } : Params).callStackDepth = some State.reset.callStack.length := by
  decide

/-- ReturnResult: an empty stack; a line with the address, the least of two; an address that no line has. -/
theorem witness_return :
    State.reset.callStack = [] ∧
      (atLine 0 [.blank, .instr ['N', 'O', 'P'] none]).addr 0 = (0xFE00 : Word).toNat ∧
      (atLine 0 [.blank, .instr ['N', 'O', 'P'] none]).addr 1 = (0xFE00 : Word).toNat ∧
      ∀ j, j < (atLine 0 [.blank]).stream.length → (atLine 0 [.blank]).addr j ≠ (0xFFFF : Word).toNat := by
  decide +kernel

/-! ### Of invariants and runs -/

/-- The demo program, assembled and about to run. -/
def demoState : State := State.install { State.reset with text := demoText, params := demoParams } demo

/-- StepKeepsSound, SoundStatesStep, CommandsKeepSound and ReturnResumesAfterCall: an assembled state is sound. -/
theorem witness_sound : demoState.Sound := by
  refine ⟨rfl, rfl, fun _ => rfl, ?_, ?_, ?_, fun _ => ⟨⟨demoText, demo, witness_assembled, rfl, rfl, rfl⟩, ?_, ?_⟩⟩
  · intro d hd; cases hd
  · intro k hk; cases hk
  · intro h; cases h
  · exact ⟨Nat.zero_le _, rfl⟩
  · intro a ha; cases ha

/-- The demo program after its call. -/
def calledState : State :=
  { demoState with status := .running, line := 3, pc := 0xFE05, callStack := [0xFE03] }

/-- StepKeepsSound and ReturnResumesAfterCall: the call is taken, and a state at the RTS has its stack. -/
theorem witness_call :
    demoState.Live ∧ fetch demoState = .instr (.jsr ['S']) ∧ step demoState = .next calledState ∧
      calledState.status = .running ∧ fetch { calledState with line := 4, pc := 0xFE07 } = .instr .rts := by
  refine ⟨.inl rfl, by decide +kernel, ?_, rfl, by decide +kernel⟩
  have h : (match step demoState with | .next t => some t | _ => none) = some calledState := by decide +kernel
  cases hs : step demoState with
  | next t => rw [hs] at h; rw [Option.some.inj h]
  | fault f => rw [hs] at h; cases h
  | refused r => rw [hs] at h; cases h

/-- What a step answers, where it answers a next state. -/
def nextOf (r : Result) : Option State :=
  match r with
  | .next t => some t
  | _ => none

/-- RaiseChangesNothingElse, for its four errors. -/
theorem witness_raises :
    [nextOf (step { demoState with line := 1 }),
      nextOf (step { demoState with params := { demoState.params with callStackDepth := some 0 } }),
      nextOf (step { demoState with line := 4, callStack := [0x1234] }),
      nextOf (step (atLine 0 [.instr ['F', 'O', 'O'] none]))].map (fun t => t.map (·.status)) =
    [some (.halted (.fault .unknownRegister)), some (.halted (.fault .callStackOverflow)),
      some (.halted (.fault .returnAddressNotFound)), some (.halted (.fault .unsupportedInstruction))] := by
  decide +kernel

/-- HaltChangesOnlyStatus, for its four reasons. -/
theorem witness_halts :
    [nextOf (step { demoState with line := 5 }), nextOf (step (atLine 0 [Line.ofInstr .swi])),
      nextOf (step { demoState with line := 4 }), nextOf (step { demoState with line := 7 })].map
        (fun t => t.map (·.status)) =
    [some (.halted .programEnd), some (.halted .swi), some (.halted .returnEmpty), some (.halted .exhausted)] := by
  decide +kernel

/-- FlagsChangeOnlyByWriters: instructions that write no flag, and the H rule; the last is ADDA under
`H_ON_ADD = Unchanged`. -/
theorem witness_flag_writers :
    exec .nop State.reset = .next (State.advance State.reset .nop) ∧
      [Mnemonic.nop.writesZN, Mnemonic.inca.writesC, Mnemonic.lsla.writesV, Mnemonic.suba.drawsH] =
        [false, false, false, false] ∧ State.reset.params.hOnAdd = .unchanged := ⟨rfl, rfl, rfl⟩

/-- DirectPageAndHalfCarryKept, ProgramFrozenWhileRunning, ProgramStoreNotRead. -/
theorem witness_running_step :
    demoState.status ≠ .notAssembled ∧ demoState.params.cmpOperandStore = .data ∧
      demoState.params.hOnAdd = .unchanged ∧ (nextOf (step demoState)).isSome = true := by
  decide +kernel

/-- WrittenBytesAreReported: a Step and a Run that store, at the top of the store and past it; a store of the byte that is
there already is listed. -/
theorem witness_written :
    (match command 9 .step { assembled "STX $FFFF\nEND" with x := 0x1234 } with
      | .next r => r.snapshot.written
      | _ => []) = [(0x0000, 0x34), (0xFFFF, 0x12)] ∧
    (match command 9 .run { assembled "STX $FFFF\nSTX $FFFF\nEND" with x := 0x1234 } with
      | .next r => r.snapshot.written
      | _ => []) = [(0x0000, 0x34), (0xFFFF, 0x12)] ∧
    (match command 9 .step (assembled "STA $10\nEND") with
      | .next r => r.snapshot.written
      | _ => []) = [(0x0010, 0x00)] ∧
    Instr.mnemonic .nop ∉ [.sta, .stb, .stx, .sty, .stu, .sts] ∧
    exec .nop State.reset = .next (State.advance State.reset .nop) :=
  ⟨by decide +kernel, by decide +kernel, by decide +kernel, by decide, rfl⟩

/-- SnapshotListsWrittenBytes: a command that answers. -/
theorem witness_snapshot : command 0 .reset State.reset = .next (reply State.reset.toReset []) := rfl

/-- RunStopsAtFirstHalt: a run that halts within its bound, and one that does not. -/
theorem witness_runs :
    [ranFor 1 "SWI\nEND", ranFor 5 "L: BRA L\nEND"].map (fun t => t.map (·.status)) =
      [some (.halted .swi), some .running] := by decide +kernel

end Sys2Proof.Tests
end

section
/-!
The state family (10_state.md): which flags an instruction leaves alone, what every step keeps, and the invariant
`State.Sound`, by one rule for each operation on the state.
-/
namespace Sys2Proof.Machine

/-! ### Reset -/

/-- Settles O53. -/
theorem resetLeavesDefaults : Obligations.ResetLeavesDefaults := by
  intro s
  have hprog : ∀ a, s.toReset.progStore.byte? a = none := fun _ => rfl
  have hdata : ∀ a, s.toReset.dataStore.read a = 0x00 := fun _ => rfl
  exact ⟨rfl, rfl, rfl, rfl, rfl, rfl, rfl, rfl, rfl, hprog, hdata, rfl, rfl⟩

/-- Settles O54: the clauses about an assembled core and about an execution error do not apply. -/
theorem resetIsSound : Obligations.ResetIsSound where
  data := Memory.wf_nil
  dp := rfl
  half := fun _ => rfl
  depth := fun d _ => Nat.zero_le d
  status := fun _ hk => nomatch hk
  unassembled := fun _ => ⟨rfl, rfl, rfl, rfl, rfl, rfl⟩
  assembled := fun hs => absurd rfl hs

/-! ### Flags -/

/-- The flags, and the count of the values drawn for H. -/
def State.flagBits (st : State) : Bool × Bool × Bool × Bool × Bool × Nat :=
  (st.n, st.z, st.v, st.c, st.h, st.draws)

theorem State.flagBits_eq_iff {s t : State} :
    t.flagBits = s.flagBits ↔
      t.n = s.n ∧ t.z = s.z ∧ t.v = s.v ∧ t.c = s.c ∧ t.h = s.h ∧ t.draws = s.draws := by
  simp [State.flagBits]

/-- From `s` to `t` only flags that R49 lets `m` write have changed. -/
structure FlagFrame (m : Mnemonic) (s t : State) : Prop where
  zn : m.writesZN = false → t.n = s.n ∧ t.z = s.z
  v : m.writesV = false → t.v = s.v
  c : m.writesC = false → t.c = s.c
  h : m.drawsH = false ∨ s.params.hOnAdd = .unchanged → t.h = s.h ∧ t.draws = s.draws

section
variable {m : Mnemonic} {s : State}

theorem FlagFrame.of_flagBits_eq {t : State} (h : t.flagBits = s.flagBits) : FlagFrame m s t := by
  obtain ⟨hn, hz, hv, hc, hh, hd⟩ := State.flagBits_eq_iff.mp h
  exact ⟨fun _ => ⟨hn, hz⟩, fun _ => hv, fun _ => hc, fun _ => ⟨hh, hd⟩⟩

theorem FlagFrame.load8 (hzn : m.writesZN = true) (r : Acc) (src : Src8) : FlagFrame m s (s.load8 r src) := by
  constructor <;> simp [State.load8, hzn]

theorem FlagFrame.load16 (hzn : m.writesZN = true) (r : IdxReg) (src : Src16) :
    FlagFrame m s (s.load16 r src) := by
  constructor <;> simp [State.load16, hzn]

theorem FlagFrame.store8 (r : Acc) (a : MemOperand) : FlagFrame m s (s.store8 r a) := .of_flagBits_eq rfl

theorem FlagFrame.store16 (r : IdxReg) (a : MemOperand) : FlagFrame m s (s.store16 r a) := .of_flagBits_eq rfl

/-- ADD writes all five flags, and H by `H_ON_ADD` alone. -/
theorem FlagFrame.add (hzn : m.writesZN = true) (hv : m.writesV = true) (hc : m.writesC = true)
    (hd : m.drawsH = true) (r : Acc) (src : Src8) : FlagFrame m s (s.add r src) where
  zn := by simp [hzn]
  v := by simp [hv]
  c := by simp [hc]
  h := by
    rintro (hm | hu)
    · exact absurd (hd.symm.trans hm) (by decide)
    · exact ⟨(DataPath.add s r src).h hu, (DataPath.add s r src).draws hu⟩

theorem FlagFrame.sub (hzn : m.writesZN = true) (hv : m.writesV = true) (hc : m.writesC = true) (r : Acc)
    (src : Src8) : FlagFrame m s (s.sub r src) := by
  constructor <;> simp [State.sub, hzn, hv, hc]

theorem FlagFrame.cmp (hzn : m.writesZN = true) (hv : m.writesV = true) (hc : m.writesC = true) (r : Acc)
    (src : Src8) : FlagFrame m s (s.cmp r src) := by
  constructor <;> simp [State.cmp, hzn, hv, hc]

/-- AND, OR and EOR leave C. -/
theorem FlagFrame.logic (hzn : m.writesZN = true) (hv : m.writesV = true) (op : LogicOp) (r : Acc) (src : Src8) :
    FlagFrame m s (s.logic op r src) := by
  constructor <;> simp [State.logic, hzn, hv]

/-- An inherent operation leaves V if its result does, and C if its result does. -/
theorem FlagFrame.unary {op : UnaryOp} (hzn : m.writesZN = true)
    (hv : m.writesV = true ∨ ∀ p a v c, (unaryOut p op a v c).v = v)
    (hc : m.writesC = true ∨ ∀ p a v c, (unaryOut p op a v c).c = c) (r : Acc) :
    FlagFrame m s (s.unary op r) where
  zn := by simp [hzn]
  v := by
    intro hm
    rcases hv with hv | hv
    · exact absurd (hv.symm.trans hm) (by decide)
    · exact hv s.params (s.acc r) s.v s.c
  c := by
    intro hm
    rcases hc with hc | hc
    · exact absurd (hc.symm.trans hm) (by decide)
    · exact hc s.params (s.acc r) s.v s.c
  h := by simp [State.unary]

end

theorem FlagFrame.ofContinue {i : Instr} {s t u : State} (hu : FlagFrame i.mnemonic s u)
    (h : continueAfter i u = .next t) : FlagFrame i.mnemonic s t := by
  obtain rfl := continueAfter_next h
  exact ⟨hu.zn, hu.v, hu.c, hu.h⟩

section
variable {i : Instr} {s t : State}

theorem transferTo_flagBits {l : Label} (h : transferTo l s = .next t) : t.flagBits = s.flagBits := by
  obtain ⟨k, _, rfl⟩ := transferTo_next h
  rfl

theorem branch_flagBits {k : Cond} {l : Label} (h : branch i k l s = .next t) : t.flagBits = s.flagBits := by
  rcases branch_next h with ⟨_, j, _, rfl⟩ | ⟨_, rfl⟩
  · rfl
  · rfl

theorem call_flagBits {l : Label} (h : call i l s = .next t) : t.flagBits = s.flagBits := by
  rcases call_next h with ⟨_, rfl⟩ | ⟨_, j, _, rfl⟩
  · rfl
  · rfl

theorem returnFromCall_flagBits (h : returnFromCall s = .next t) : t.flagBits = s.flagBits := by
  rcases returnFromCall_next h with ⟨_, rfl⟩ | ⟨a, _, ⟨_, rfl⟩ | ⟨j, _, rfl⟩⟩
  · rfl
  · rfl
  · rfl

theorem setPairReg_flagBits (r : PairReg) (w : Word) : (s.setPairReg r w).flagBits = s.flagBits := by
  simp [State.flagBits]

theorem transfer_flagBits {r1 r2 : PairReg} (h : transfer i r1 r2 s = .next t) : t.flagBits = s.flagBits := by
  rcases transfer_next h with ⟨_, rfl⟩ | ⟨_, rfl⟩
  · rfl
  · exact setPairReg_flagBits _ _

theorem exchange_flagBits {r1 r2 : PairReg} (h : exchange i r1 r2 s = .next t) : t.flagBits = s.flagBits := by
  rcases exchange_next h with ⟨_, rfl⟩ | ⟨_, rfl⟩
  · rfl
  · exact (setPairReg_flagBits _ _).trans (setPairReg_flagBits _ _)

/-- R49, family by family. -/
theorem exec_flagFrame (h : exec i s = .next t) : FlagFrame i.mnemonic s t := by
  cases i
  case ldaImmediate | ldaDirect | ldaIndexed | ldaExtended | ldbImmediate | ldbDirect | ldbIndexed | ldbExtended =>
    exact .ofContinue (.load8 rfl _ _) h
  case ldxImmediate | ldxDirect | ldxIndexed | ldxExtended | ldyImmediate | ldyDirect | ldyIndexed | ldyExtended |
      lduImmediate | lduDirect | lduIndexed | lduExtended | ldsImmediate | ldsDirect | ldsIndexed | ldsExtended =>
    exact .ofContinue (.load16 rfl _ _) h
  case staDirect | staIndexed | staExtended | stbDirect | stbIndexed | stbExtended =>
    exact .ofContinue (.store8 _ _) h
  case stxDirect | stxIndexed | stxExtended | styDirect | styIndexed | styExtended | stuDirect | stuIndexed |
      stuExtended | stsDirect | stsIndexed | stsExtended =>
    exact .ofContinue (.store16 _ _) h
  case addaImmediate | addaDirect | addaIndexed | addaExtended | addbImmediate | addbDirect | addbIndexed |
      addbExtended =>
    exact .ofContinue (.add rfl rfl rfl rfl _ _) h
  case subaImmediate | subaDirect | subaIndexed | subaExtended | subbImmediate | subbDirect | subbIndexed |
      subbExtended =>
    exact .ofContinue (.sub rfl rfl rfl _ _) h
  case cmpaImmediate | cmpaDirect | cmpaIndexed | cmpaExtended | cmpbImmediate | cmpbDirect | cmpbIndexed |
      cmpbExtended =>
    exact .ofContinue (.cmp rfl rfl rfl _ _) h
  case inca | incb | deca | decb =>
    exact .ofContinue (.unary rfl (.inl rfl) (.inr fun _ _ _ _ => rfl) _) h
  case lsla | lslb | lsra | lsrb | rola | rolb | rora | rorb | clra | clrb | coma | comb | nega | negb =>
    exact .ofContinue (.unary rfl (.inr fun _ _ _ _ => rfl) (.inl rfl) _) h
  case andaImmediate | andaDirect | andaIndexed | andaExtended | andbImmediate | andbDirect | andbIndexed |
      andbExtended | oraImmediate | oraDirect | oraIndexed | oraExtended | orbImmediate | orbDirect | orbIndexed |
      orbExtended | eoraImmediate | eoraDirect | eoraIndexed | eoraExtended | eorbImmediate | eorbDirect |
      eorbIndexed | eorbExtended =>
    exact .ofContinue (.logic rfl rfl _ _ _) h
  case tfr => exact .of_flagBits_eq (transfer_flagBits h)
  case exg => exact .of_flagBits_eq (exchange_flagBits h)
  case jmp => exact .of_flagBits_eq (transferTo_flagBits h)
  case bra l => exact .of_flagBits_eq (branch_flagBits (i := .bra l) (k := .always) (l := l) h)
  case beq | bne | bmi | bpl | bcc | bcs | bvc | bvs => exact .of_flagBits_eq (branch_flagBits h)
  case jsr | bsr => exact .of_flagBits_eq (call_flagBits h)
  case rts => exact .of_flagBits_eq (returnFromCall_flagBits h)
  case swi | endProgram | nop => cases h; exact .of_flagBits_eq rfl

end

/-- Settles O48. -/
theorem flagsChangeOnlyByWriters : Obligations.FlagsChangeOnlyByWriters := by
  intro i s t h
  have hf := exec_flagFrame h
  exact ⟨hf.zn, hf.v, hf.c, hf.h⟩

/-! ### DP and H -/

/-- No instruction writes DP, by its shape, and H is the data path's alone. -/
theorem exec_keeps_dp_and_h {i : Instr} {s t : State} (h : exec i s = .next t) :
    t.dp = s.dp ∧ (s.params.hOnAdd = .unchanged → t.h = s.h) := by
  refine ⟨?_, fun hu => ((exec_flagFrame h).h (.inr hu)).1⟩
  cases exec_shape h with
  | continued u hu ht => rw [ht, State.advance_dp, hu.dp]
  | transferred _ _ _ _ ht | called _ _ _ _ _ _ ht | returned _ _ _ _ _ ht | halted _ _ ht | moveRaised _ ht
  | overflowed _ _ ht | lost _ _ _ _ ht => rw [ht]; rfl

/-- Settles O49. -/
theorem directPageAndHalfCarryKept : Obligations.DirectPageAndHalfCarryKept := by
  intro s t hs h
  cases step_shape h with
  | assembled hn _ => exact absurd hn hs
  | idle _ _ ht | exhausted _ _ ht | blank _ _ ht | unknown _ _ ht => rw [ht]; exact ⟨rfl, fun _ => rfl⟩
  | ran i _ _ hx => exact exec_keeps_dp_and_h (s := s.begin) hx

/-! ### The addresses of an assembled program

From the last END on no line has a size, so every address is that of END, which fits (30_encoding.md R133, R175).
Hence no address wraps, and a line with a size is not the last one. -/

theorem Instr.eq_endProgram {i : Instr} (h : i.mnemonic = .endProgram) : i = .endProgram := by
  cases i with
  | endProgram => rfl
  | _ => nomatch h

theorem lineSize_end (p : Params) (op : Option Text) :
    lineSize p (.instr (Mnemonic.text .endProgram) op) = 0 := by
  cases hd : decodeLine p (Mnemonic.text .endProgram) op with
  | error k => simp only [lineSize, hd]
  | ok i =>
    have hi : i = .endProgram := Instr.eq_endProgram (Mnemonic.text_inj (decodeLine_ok hd).1).symm
    simp only [lineSize, hd, hi]
    rfl

/-- Lines without a size do not move the address. -/
theorem lineAddr_eq_of_lineSize_zero {p : Params} {stream : List Line} {e j : Nat}
    (h : ∀ k ln, e ≤ k → stream[k]? = some ln → lineSize p ln = 0) (hj : e ≤ j) :
    lineAddr p stream j = lineAddr p stream e := by
  induction j, hj using Nat.le_induction with
  | base => rfl
  | succ j hj ih =>
    cases hln : stream[j]? with
    | none => rw [lineAddr_succ_of_none hln, ih]
    | some ln => rw [lineAddr_succ hln, h j ln hj hln, ih, Nat.add_zero]

/-- The END line of an assembled program: it fits, and no line from it on has a size. -/
theorem exists_end_line {p : Params} {text : Text} {asm : Assembled} (h : assembleText p text = .ok asm) :
    ∃ e, e < asm.stream.length ∧ lineAddr p asm.stream e < 0x10000 ∧
      ∀ k ln, e ≤ k → asm.stream[k]? = some ln → lineSize p ln = 0 := by
  obtain ⟨_, _, hend, hfit, _⟩ := assembleText_ok h
  obtain ⟨pre, op, post, hstream, hblank⟩ := (endsWithEnd_iff _).mp hend
  rw [hstream] at hfit ⊢
  refine ⟨pre.length, by simp, ?_, ?_⟩
  · have hle := (fitFrom_ok (pre := [])).mp hfit pre.length _ (by simp; rfl) (by simp)
    rw [List.nil_append, List.length_nil, Nat.zero_add, lineSize_end] at hle
    have htop := p.programTop.isLt
    omega
  · intro k ln hk hln
    rw [List.getElem?_append_right hk] at hln
    rcases List.mem_cons.mp (List.mem_of_getElem? hln) with rfl | hmem
    · exact lineSize_end p op
    · rw [hblank ln hmem]
      rfl

section
variable {s : State}

theorem State.ProgramOk.addr_lt (h : s.ProgramOk) (j : Nat) : s.addr j < 0x10000 := by
  obtain ⟨text, asm, hasm, hstream, _, _⟩ := h
  obtain ⟨e, _, hlt, hzero⟩ := exists_end_line hasm
  rw [State.addr, hstream]
  rcases Nat.le_total j e with hj | hj
  · exact Nat.lt_of_le_of_lt (lineAddr_mono hj) hlt
  · rwa [lineAddr_eq_of_lineSize_zero hzero hj]

/-- R43: the address of a line is its 16-bit value, without wrapping. -/
theorem State.ProgramOk.toNat_ofNat_addr (h : s.ProgramOk) (j : Nat) :
    (BitVec.ofNat 16 (s.addr j)).toNat = s.addr j := by
  rw [BitVec.toNat_ofNat, Nat.mod_eq_of_lt (h.addr_lt j)]

/-- A line with a size is followed by another line. -/
theorem State.ProgramOk.succ_lt_length (h : s.ProgramOk) {j : Nat} {ln : Line} (hln : s.stream[j]? = some ln)
    (hsize : lineSize s.params ln ≠ 0) : j + 1 < s.stream.length := by
  obtain ⟨text, asm, hasm, hstream, _, _⟩ := h
  obtain ⟨e, he, _, hzero⟩ := exists_end_line hasm
  rw [hstream] at hln ⊢
  by_contra hlast
  exact hsize (hzero j ln (by omega) hln)

theorem State.ProgramOk.lookup_lt (h : s.ProgramOk) {l : Label} {k : Nat} (hk : s.labels.lookup l = some k) :
    k < s.stream.length := by
  obtain ⟨text, asm, hasm, hstream, hlabels, _⟩ := h
  rw [hlabels] at hk
  rw [hstream]
  exact pass1_lookup_lt (assembleText_ok hasm).1 hk

/-! ### What a fetch says of the line -/

/-- A fetch that is not exhausted reads the current line. -/
theorem exists_line_of_fetch {f : Fetched} (hf : fetch s = f) (hne : f ≠ .exhausted) :
    ∃ ln, s.stream[s.line]? = some ln ∧ readLine s.params ln = f := by
  unfold fetch at hf
  split at hf
  · exact absurd hf.symm hne
  · rename_i ln hln
    exact ⟨ln, hln, hf⟩

theorem lineSize_of_readLine_instr {p : Params} {ln : Line} {i : Instr} (h : readLine p ln = .instr i) :
    lineSize p ln = i.size := by
  cases ln with
  | blank => cases h
  | instr mn op =>
    simp only [readLine] at h
    split at h
    · cases h
    · split at h
      · rename_i j hj
        cases h
        simp only [lineSize, hj]
      · cases h

theorem eq_blank_of_readLine_blank {p : Params} {ln : Line} (h : readLine p ln = .blank) : ln = .blank := by
  cases ln with
  | blank => rfl
  | instr mn op =>
    simp only [readLine] at h
    split at h
    · cases h
    · split at h <;> cases h

theorem fetch_instr {i : Instr} (hf : fetch s = .instr i) :
    ∃ ln, s.stream[s.line]? = some ln ∧ lineSize s.params ln = i.size := by
  obtain ⟨ln, hln, hread⟩ := exists_line_of_fetch hf nofun
  exact ⟨ln, hln, lineSize_of_readLine_instr hread⟩

theorem fetch_blank (hf : fetch s = .blank) : s.stream[s.line]? = some .blank := by
  obtain ⟨ln, hln, hread⟩ := exists_line_of_fetch hf nofun
  rwa [eq_blank_of_readLine_blank hread] at hln

/-- Every line of an assembled program has a mnemonic with a row (30_encoding.md R130, check V1). -/
theorem State.ProgramOk.fetch_ne_unknownMnemonic (h : s.ProgramOk) : fetch s ≠ .unknownMnemonic := by
  obtain ⟨text, asm, hasm, hstream, _, _⟩ := h
  obtain ⟨_, hpass2, _⟩ := assembleText_ok hasm
  intro hf
  obtain ⟨ln, hln, hread⟩ := exists_line_of_fetch hf nofun
  rw [hstream] at hln
  have hvalid := pass2From_ok.mp hpass2 ln (List.mem_of_getElem? hln)
  cases ln with
  | blank => cases hread
  | instr mn op =>
    obtain ⟨i, hi, _⟩ := validateLine_ok hvalid
    simp only [readLine, decodeLine_ok_ofText hi, hi] at hread
    cases hread

/-! ### Soundness under each operation -/

theorem fetch_dataPath {u : State} (hu : DataPath s u) : fetch u = fetch s := by
  rw [fetch, hu.stream, hu.line, hu.params, fetch]

/-- The next instruction is at the next line's address (10_state.md R42, R43). -/
theorem State.Sound.toNat_nextPc (h : s.Sound) (hs : s.status ≠ .notAssembled) {i : Instr}
    (hf : fetch s = .instr i) : (s.nextPc i).toNat = s.addr (s.line + 1) := by
  obtain ⟨hprog, hpc, _⟩ := h.assembled hs
  obtain ⟨ln, hln, hsize⟩ := fetch_instr hf
  have hsucc : s.addr (s.line + 1) = s.pc.toNat + i.size := by
    rw [← hpc.2, ← hsize]
    exact lineAddr_succ hln
  rw [← hprog.toNat_ofNat_addr, hsucc, State.nextPc, BitVec.ofNat_add, BitVec.ofNat_toNat, BitVec.setWidth_eq]

theorem State.Sound.dataPath (h : s.Sound) {u : State} (hu : DataPath s u) : u.Sound where
  data := hu.data h.data
  dp := hu.dp.trans h.dp
  half := by
    rw [hu.params]
    exact fun hp => (hu.h hp).trans (h.half hp)
  depth := by
    rw [State.DepthOk, hu.params, hu.callStack]
    exact h.depth
  status := by
    rw [State.StatusOk, hu.status]
    exact h.status
  unassembled := by
    rw [State.Unassembled, hu.status, hu.line, hu.pc, hu.callStack, hu.stream, hu.labels, hu.progStore]
    exact h.unassembled
  assembled := by
    simp only [State.ProgramOk, State.PcOk, State.ReturnsOk, State.addr, hu.status, hu.line, hu.pc, hu.callStack,
      hu.stream, hu.labels, hu.progStore, hu.params]
    exact h.assembled

theorem State.Sound.begin (h : s.Sound) (hs : s.status ≠ .notAssembled) : s.begin.Sound where
  __ := h
  status := fun _ hk => nomatch hk
  unassembled := fun hn => nomatch hn
  assembled := fun _ => h.assembled hs

theorem State.Sound.halt (h : s.Sound) (hs : s.status ≠ .notAssembled) {r : HaltReason} (hr : ∀ k, r ≠ .fault k) :
    (s.halt r).Sound where
  __ := h
  status := fun k hk => absurd (Status.halted.inj hk) (hr k)
  unassembled := fun hn => nomatch hn
  assembled := fun _ => h.assembled hs

theorem State.Sound.raise (h : s.Sound) (hs : s.status ≠ .notAssembled) {k : ErrorKind}
    (hk : k = .unknownRegister ∨ k = .callStackOverflow) : (s.raise k).Sound where
  __ := h
  status := by
    rintro _ ⟨⟩
    exact hk
  unassembled := fun hn => nomatch hn
  assembled := fun _ => h.assembled hs

theorem State.Sound.skipBlank (h : s.Sound) (hs : s.status ≠ .notAssembled) (hf : fetch s = .blank) :
    s.skipBlank.Sound where
  __ := h
  unassembled := fun hn => absurd hn hs
  assembled := by
    intro _
    obtain ⟨hprog, ⟨_, haddr⟩, hret⟩ := h.assembled hs
    have hln := fetch_blank hf
    have hsucc : s.addr (s.line + 1) = s.addr s.line := lineAddr_succ hln
    exact ⟨hprog, ⟨(List.getElem?_eq_some_iff.mp hln).1, hsucc.trans haddr⟩, hret⟩

theorem State.Sound.advance (h : s.Sound) (hs : s.status ≠ .notAssembled) {i : Instr} (hf : fetch s = .instr i) :
    (s.advance i).Sound where
  __ := h
  unassembled := fun hn => absurd hn hs
  assembled := by
    intro _
    obtain ⟨hprog, _, hret⟩ := h.assembled hs
    obtain ⟨ln, hln, _⟩ := fetch_instr hf
    exact ⟨hprog, ⟨(List.getElem?_eq_some_iff.mp hln).1, (h.toNat_nextPc hs hf).symm⟩, hret⟩

theorem State.Sound.goto (h : s.Sound) (hs : s.status ≠ .notAssembled) {l : Label} {k : Nat}
    (hk : s.labels.lookup l = some k) : (s.goto k).Sound where
  __ := h
  unassembled := fun hn => absurd hn hs
  assembled := by
    intro _
    obtain ⟨hprog, _, hret⟩ := h.assembled hs
    exact ⟨hprog, ⟨(hprog.lookup_lt hk).le, (hprog.toNat_ofNat_addr k).symm⟩, hret⟩

theorem State.Sound.push (h : s.Sound) (hs : s.status ≠ .notAssembled) (hroom : s.stackFull = false) {a : Word}
    (ha : ∃ j, j < s.stream.length ∧ s.addr j = a.toNat) : (s.push a).Sound where
  __ := h
  depth := by
    intro d hd
    have hle := h.depth d hd
    have hne : s.callStack.length ≠ d := by
      rintro rfl
      rw [State.push_params] at hd
      simp [State.stackFull, hd] at hroom
    simp only [State.push_callStack, List.length_append, List.length_singleton]
    omega
  unassembled := fun hn => absurd hn hs
  assembled := by
    intro _
    obtain ⟨hprog, hpc, hret⟩ := h.assembled hs
    refine ⟨hprog, hpc, fun b hb => ?_⟩
    rcases List.mem_append.mp hb with hb | hb
    · exact hret b hb
    · rw [List.mem_singleton.mp hb]
      exact ha

/-- A return to the line that the scan finds for its address. -/
theorem State.Sound.popTo (h : s.Sound) (hs : s.status ≠ .notAssembled) {a : Word} {j : Nat}
    (hj : s.lineAt? a = some j) : State.Sound { s.pop with line := j, pc := a } where
  __ := h
  depth := fun d hd => (List.length_dropLast ▸ Nat.sub_le _ _).trans (h.depth d hd)
  unassembled := fun hn => absurd hn hs
  assembled := by
    intro _
    obtain ⟨hprog, _, hret⟩ := h.assembled hs
    obtain ⟨hlt, haddr, _⟩ := State.lineAt?_eq_some hj
    exact ⟨hprog, ⟨hlt.le, haddr⟩, fun b hb => hret b (List.mem_of_mem_dropLast hb)⟩

/-- Every return address of an assembled core is found (46_control_transfer.md R396). -/
theorem State.Sound.lineAt?_ne_none (h : s.Sound) (hs : s.status ≠ .notAssembled) {a : Word}
    (ha : s.callStack.getLast? = some a) : s.lineAt? a ≠ none := by
  obtain ⟨_, _, hret⟩ := h.assembled hs
  obtain ⟨j, hj, haddr⟩ := hret a (List.mem_of_getLast? ha)
  exact fun hnone => State.lineAt?_eq_none hnone j hj haddr

theorem State.Sound.install (h : s.Sound) (hs : s.status = .notAssembled) {asm : Assembled}
    (hasm : assembleText s.params s.text = .ok asm) : (s.install asm).Sound where
  __ := h
  status := fun _ hk => nomatch hk
  unassembled := fun hn => nomatch hn
  assembled := by
    intro _
    obtain ⟨hline, hpc, hstack, _, _, _⟩ := h.unassembled hs
    refine ⟨⟨s.text, asm, hasm, rfl, rfl, rfl⟩, ⟨?_, ?_⟩, ?_⟩
    · rw [State.install_line, hline]
      exact Nat.zero_le _
    · rw [State.install_line, hline, State.install_pc, hpc]
      rfl
    · intro a ha
      rw [State.install_callStack, hstack] at ha
      cases ha

theorem State.Sound.assemble (h : s.Sound) (hs : s.status = .notAssembled) : s.assemble.Sound := by
  unfold State.assemble
  split
  · rename_i asm hasm
    exact h.install hs hasm
  · exact { h with }

/-! ### Soundness under a step -/

/-- The address that a call pushes is that of the line after it. -/
theorem State.Sound.exists_line_nextPc (h : s.Sound) (hs : s.status ≠ .notAssembled) {i : Instr}
    (hf : fetch s = .instr i) (hi : i.mnemonic ≠ .endProgram) :
    ∃ j, j < s.stream.length ∧ s.addr j = (s.nextPc i).toNat := by
  obtain ⟨ln, hln, hsize⟩ := fetch_instr hf
  have hpos : lineSize s.params ln ≠ 0 := by
    rw [hsize]
    exact fun h0 => hi (congrArg Instr.mnemonic (Instr.size_eq_zero h0))
  exact ⟨s.line + 1, (h.assembled hs).1.succ_lt_length hln hpos, (h.toNat_nextPc hs hf).symm⟩

/-- The instruction at the current line keeps an assembled core sound. -/
theorem State.Sound.exec (h : s.Sound) (hs : s.status ≠ .notAssembled) {i : Instr} {t : State}
    (hf : fetch s = .instr i) (hx : exec i s = .next t) : t.Sound := by
  cases exec_shape hx with
  | continued u hu ht =>
    rw [ht]
    exact (h.dataPath hu).advance (hu.status ▸ hs) ((fetch_dataPath hu).trans hf)
  | transferred l k _ hk ht => rw [ht]; exact h.goto hs hk
  | called l k _ hi hroom hk ht =>
    have hne : i.mnemonic ≠ .endProgram := by
      rcases hi with hi | hi <;> rw [hi] <;> decide
    rw [ht]
    exact (h.push hs hroom (h.exists_line_nextPc hs hf hne)).goto hs hk
  | returned a j _ _ hj ht => rw [ht]; exact h.popTo hs hj
  | halted r hr ht =>
    rw [ht]
    refine h.halt hs fun k hk => ?_
    rcases hr with ⟨hr, _⟩ | ⟨hr, _⟩ | ⟨hr, _⟩ <;> cases hr.symm.trans hk
  | moveRaised _ ht => rw [ht]; exact h.raise hs (.inl rfl)
  | overflowed _ _ ht => rw [ht]; exact h.raise hs (.inr rfl)
  | lost a _ ha hj _ => exact absurd hj (h.lineAt?_ne_none hs ha)

end

theorem ne_notAssembled_of_live {s : State} (hs : s.Live) : s.status ≠ .notAssembled := by
  rcases hs with hs | hs <;> rw [hs] <;> decide

/-- Settles O55, by the shape of the step. -/
theorem stepKeepsSound : Obligations.StepKeepsSound := by
  intro s t h hst
  cases step_shape hst with
  | assembled hn ht => rw [ht]; exact h.assemble hn
  | idle _ _ ht => rw [ht]; exact h
  | exhausted hs _ ht => rw [ht]; exact h.halt (ne_notAssembled_of_live hs) fun _ hk => nomatch hk
  | blank hs hf ht =>
    rw [ht]
    exact (h.begin (ne_notAssembled_of_live hs)).skipBlank (fun hn => nomatch hn) hf
  | ran i hs hf hx => exact (h.begin (ne_notAssembled_of_live hs)).exec (fun hn => nomatch hn) hf hx
  | unknown hs hf _ => exact absurd hf (h.assembled (ne_notAssembled_of_live hs)).1.fetch_ne_unknownMnemonic

end Sys2Proof.Machine
end

section
/-!
The memory family (20_memory.md): words in the data store, which bytes each instruction writes and what the snapshot
lists of them, and the program, which no step changes and, with `CMP_OPERAND_STORE = Data`, none reads from its store.
-/
namespace Sys2Proof.Machine

/-! ### Words in the data store -/

section
variable {m : Memory} (a v : Word)

theorem Memory.read_write16_low (h : m.wf = true) : (m.write16 a v).read (a + 1) = loByte v :=
  Memory.read_write_same _ _ _ (Memory.wf_write _ _ _ h)

/-- The low byte goes to another address, also when the high byte stands at 0xFFFF (R86). -/
theorem Memory.read_write16_high (h : m.wf = true) : (m.write16 a v).read a = hiByte v := by
  rw [Memory.write16, Memory.read_write_other _ _ _ _ (succ_ne a).symm, Memory.read_write_same _ _ _ h]

theorem Memory.read_write16_other {a' : Word} (h : a' ≠ a) (h' : a' ≠ a + 1) :
    (m.write16 a v).read a' = m.read a' := by
  rw [Memory.write16, Memory.read_write_other _ _ _ _ h', Memory.read_write_other _ _ _ _ h]

theorem Memory.read16_write16 (h : m.wf = true) : (m.write16 a v).read16 a = v := by
  rw [Memory.read16, Memory.read_write16_high a v h, Memory.read_write16_low a v h, joinBytes_hi_lo]

end

/-- Settles O29. -/
theorem storeThenLoadReturnsWord : Obligations.StoreThenLoadReturnsWord := fun m a v h =>
  ⟨m.read16_write16 a v h, m.read_write16_high a v h, m.read_write16_low a v h, m.wf_write16 a v h,
    fun _ ha ha' => m.read_write16_other a v ha ha'⟩

/-! ### The operation that each instruction runs -/

/-- The shared operation that is the meaning of an instruction, in every state. -/
inductive ExecForm (i : Instr) : Prop where
  | load8 (r : Acc) (src : Src8) (h : ∀ s, exec i s = continueAfter i (s.load8 r src))
  | load16 (r : IdxReg) (src : Src16) (h : ∀ s, exec i s = continueAfter i (s.load16 r src))
  | store8 (r : Acc) (m : MemOperand) (ho : i.operand = .mem m) (hw : storeWidth i.mnemonic = 1)
      (h : ∀ s, exec i s = continueAfter i (s.store8 r m))
  | store16 (r : IdxReg) (m : MemOperand) (ho : i.operand = .mem m) (hw : storeWidth i.mnemonic = 2)
      (h : ∀ s, exec i s = continueAfter i (s.store16 r m))
  | add (r : Acc) (src : Src8) (h : ∀ s, exec i s = continueAfter i (s.add r src))
  | sub (r : Acc) (src : Src8) (h : ∀ s, exec i s = continueAfter i (s.sub r src))
  | cmp (r : Acc) (src : Src8) (h : ∀ s, exec i s = continueAfter i (s.cmp r src))
  | unary (op : UnaryOp) (r : Acc) (h : ∀ s, exec i s = continueAfter i (s.unary op r))
  | logic (op : LogicOp) (r : Acc) (src : Src8) (h : ∀ s, exec i s = continueAfter i (s.logic op r src))
  | nop (h : ∀ s, exec i s = continueAfter i s)
  | transfer (r1 r2 : PairReg) (h : ∀ s, exec i s = transfer i r1 r2 s)
  | exchange (r1 r2 : PairReg) (h : ∀ s, exec i s = exchange i r1 r2 s)
  | jump (l : Label) (h : ∀ s, exec i s = transferTo l s)
  | branch (k : Cond) (l : Label) (h : ∀ s, exec i s = branch i k l s)
  | call (l : Label) (h : ∀ s, exec i s = call i l s)
  | rts (h : ∀ s, exec i s = returnFromCall s)
  | halt (r : HaltReason) (h : ∀ s, exec i s = .next (s.halt r))

theorem execForm (i : Instr) : ExecForm i := by
  cases i
  case ldaImmediate | ldaDirect | ldaIndexed | ldaExtended | ldbImmediate | ldbDirect | ldbIndexed | ldbExtended =>
    exact .load8 _ _ fun _ => rfl
  case ldxImmediate | ldxDirect | ldxIndexed | ldxExtended | ldyImmediate | ldyDirect | ldyIndexed | ldyExtended |
      lduImmediate | lduDirect | lduIndexed | lduExtended | ldsImmediate | ldsDirect | ldsIndexed | ldsExtended =>
    exact .load16 _ _ fun _ => rfl
  case staDirect | staIndexed | staExtended | stbDirect | stbIndexed | stbExtended =>
    exact .store8 _ _ rfl rfl fun _ => rfl
  case stxDirect | stxIndexed | stxExtended | styDirect | styIndexed | styExtended | stuDirect | stuIndexed |
      stuExtended | stsDirect | stsIndexed | stsExtended =>
    exact .store16 _ _ rfl rfl fun _ => rfl
  case addaImmediate | addaDirect | addaIndexed | addaExtended | addbImmediate | addbDirect | addbIndexed |
      addbExtended =>
    exact .add _ _ fun _ => rfl
  case subaImmediate | subaDirect | subaIndexed | subaExtended | subbImmediate | subbDirect | subbIndexed |
      subbExtended =>
    exact .sub _ _ fun _ => rfl
  case cmpaImmediate | cmpaDirect | cmpaIndexed | cmpaExtended | cmpbImmediate | cmpbDirect | cmpbIndexed |
      cmpbExtended =>
    exact .cmp _ _ fun _ => rfl
  case inca | incb | deca | decb | lsla | lslb | lsra | lsrb | rola | rolb | rora | rorb | clra | clrb | coma | comb |
      nega | negb =>
    exact .unary _ _ fun _ => rfl
  case andaImmediate | andaDirect | andaIndexed | andaExtended | andbImmediate | andbDirect | andbIndexed |
      andbExtended | oraImmediate | oraDirect | oraIndexed | oraExtended | orbImmediate | orbDirect | orbIndexed |
      orbExtended | eoraImmediate | eoraDirect | eoraIndexed | eoraExtended | eorbImmediate | eorbDirect |
      eorbIndexed | eorbExtended =>
    exact .logic _ _ _ fun _ => rfl
  case nop => exact .nop fun _ => rfl
  case tfr => exact .transfer _ _ fun _ => rfl
  case exg => exact .exchange _ _ fun _ => rfl
  case jmp => exact .jump _ fun _ => rfl
  case bra => exact .branch .always _ fun _ => rfl
  case beq => exact .branch .eq _ fun _ => rfl
  case bne => exact .branch .ne _ fun _ => rfl
  case bmi => exact .branch .mi _ fun _ => rfl
  case bpl => exact .branch .pl _ fun _ => rfl
  case bcc => exact .branch .cc _ fun _ => rfl
  case bcs => exact .branch .cs _ fun _ => rfl
  case bvc => exact .branch .vc _ fun _ => rfl
  case bvs => exact .branch .vs _ fun _ => rfl
  case jsr | bsr => exact .call _ fun _ => rfl
  case rts => exact .rts fun _ => rfl
  case swi | endProgram => exact .halt _ fun _ => rfl

/-! ### What an instruction writes -/

/-- The data store after an instruction: as before, or with one byte or one word written at the stored addresses. -/
inductive Writes (i : Instr) (s t : State) : Prop where
  | kept (h : t.dataStore = s.dataStore)
  | byte (a : Word) (b : Byte) (hw : storeWidth i.mnemonic = 1) (ha : storedAddrs s i = [a])
      (h : t.dataStore = s.dataStore.write a b)
  | word (a v : Word) (hw : storeWidth i.mnemonic = 2) (ha : storedAddrs s i = [a, a + 1])
      (h : t.dataStore = s.dataStore.write16 a v)

section
variable {i : Instr} {s t : State}

theorem storedAddrs_of_width_zero (h : storeWidth i.mnemonic = 0) : storedAddrs s i = [] := by
  unfold storedAddrs
  split
  · rw [h]
    rfl
  · rfl

theorem storedAddrs_of_width_one {m : MemOperand} (ho : i.operand = .mem m) (h : storeWidth i.mnemonic = 1) :
    storedAddrs s i = [s.ea m] := by
  simp [storedAddrs, ho, h]

theorem storedAddrs_of_width_two {m : MemOperand} (ho : i.operand = .mem m) (h : storeWidth i.mnemonic = 2) :
    storedAddrs s i = [s.ea m, s.ea m + 1] := by
  simp [storedAddrs, ho, h, List.range_succ]

theorem Writes.ofContinue {u : State} (hu : u.dataStore = s.dataStore) (h : continueAfter i u = .next t) :
    Writes i s t := by
  rw [continueAfter_next h]
  exact .kept hu

/-- Only the stores write the data store, at their stored addresses (20_memory.md R84). -/
theorem exec_writes (hx : exec i s = .next t) : Writes i s t := by
  cases execForm i with
  | load8 r src h => exact .ofContinue (by simp [State.load8]) (h s ▸ hx)
  | load16 r src h => exact .ofContinue (by simp [State.load16]) (h s ▸ hx)
  | store8 r m ho hw h =>
    obtain rfl := continueAfter_next (h s ▸ hx)
    exact .byte (s.ea m) (s.acc r) hw (storedAddrs_of_width_one ho hw) rfl
  | store16 r m ho hw h =>
    obtain rfl := continueAfter_next (h s ▸ hx)
    exact .word (s.ea m) (s.idx r) hw (storedAddrs_of_width_two ho hw) rfl
  | add r src h => exact .ofContinue (by simp [State.add]) (h s ▸ hx)
  | sub r src h => exact .ofContinue (by simp [State.sub]) (h s ▸ hx)
  | cmp r src h => exact .ofContinue (by simp [State.cmp]) (h s ▸ hx)
  | unary op r h => exact .ofContinue (by simp [State.unary]) (h s ▸ hx)
  | logic op r src h => exact .ofContinue (by simp [State.logic]) (h s ▸ hx)
  | nop h => exact .ofContinue rfl (h s ▸ hx)
  | transfer r1 r2 h =>
    rcases transfer_next (h s ▸ hx) with ⟨_, rfl⟩ | ⟨_, rfl⟩
    · exact .kept rfl
    · exact .kept (by simp)
  | exchange r1 r2 h =>
    rcases exchange_next (h s ▸ hx) with ⟨_, rfl⟩ | ⟨_, rfl⟩
    · exact .kept rfl
    · exact .kept (by simp)
  | jump l h =>
    obtain ⟨k, _, rfl⟩ := transferTo_next (h s ▸ hx)
    exact .kept rfl
  | branch k l h =>
    rcases branch_next (h s ▸ hx) with ⟨_, j, _, rfl⟩ | ⟨_, rfl⟩
    · exact .kept rfl
    · exact .kept rfl
  | call l h =>
    rcases call_next (h s ▸ hx) with ⟨_, rfl⟩ | ⟨_, j, _, rfl⟩
    · exact .kept rfl
    · exact .kept rfl
  | rts h =>
    rcases returnFromCall_next (h s ▸ hx) with ⟨_, rfl⟩ | ⟨a, _, ⟨_, rfl⟩ | ⟨j, _, rfl⟩⟩
    · exact .kept rfl
    · exact .kept rfl
    · exact .kept rfl
  | halt r h =>
    obtain rfl := Host.Outcome.next.inj (h s ▸ hx)
    exact .kept rfl

theorem exec_read_of_not_mem (hx : exec i s = .next t) {a : Word} (ha : a ∉ storedAddrs s i) :
    t.dataStore.read a = s.dataStore.read a := by
  cases exec_writes hx with
  | kept h => rw [h]
  | byte a' b _ haddr h =>
    rw [haddr, List.mem_singleton] at ha
    rw [h, Memory.read_write_other _ _ _ _ ha]
  | word a' v _ haddr h =>
    simp only [haddr, List.mem_cons, List.not_mem_nil, or_false, not_or] at ha
    obtain ⟨hhigh, hlow⟩ := ha
    rw [h, Memory.read_write16_other _ _ hhigh hlow]

theorem exec_dataStore_of_width_zero (hx : exec i s = .next t) (hw : storeWidth i.mnemonic = 0) :
    t.dataStore = s.dataStore := by
  cases exec_writes hx with
  | kept h => exact h
  | byte _ _ hw' _ _ => exact absurd (hw.symm.trans hw') (by decide)
  | word _ _ hw' _ _ => exact absurd (hw.symm.trans hw') (by decide)

end

/-- The mnemonics that store a byte or a word (R91). -/
theorem storeWidth_eq_zero {m : Mnemonic} (h : m ∉ [.sta, .stb, .stx, .sty, .stu, .sts]) : storeWidth m = 0 := by
  simp only [List.mem_cons, List.not_mem_nil, or_false, not_or] at h
  simp [storeWidth, h]

/-! ### What a step and a run write -/

section
variable {s t : State} {a : Word}

@[simp] theorem State.assemble_dataStore (s : State) : s.assemble.dataStore = s.dataStore := by
  unfold State.assemble
  split <;> rfl

theorem step_read_of_not_mem (hst : step s = .next t) (ha : a ∉ stepStores s) :
    t.dataStore.read a = s.dataStore.read a := by
  cases step_shape hst with
  | assembled _ ht => rw [ht, State.assemble_dataStore]
  | idle _ _ ht | exhausted _ _ ht | blank _ _ ht | unknown _ _ ht => subst ht; rfl
  | ran i hs hf hx =>
    rw [stepStores_of_instr hs hf] at ha
    exact exec_read_of_not_mem (s := s.begin) hx ha

theorem runStores_succ_of_next {n : Nat} (h : step s = .next t) :
    runStores (n + 1) s = stepStores s ++ runStores n t := by
  rw [runStores, h]

theorem runSteps_read_of_not_mem {n : Nat} (hrun : runSteps n s = .next t) (ha : a ∉ runStores n s) :
    t.dataStore.read a = s.dataStore.read a := by
  induction n generalizing s with
  | zero => rw [← Host.Outcome.next.inj hrun]
  | succ n ih =>
    by_cases hs : s.Halted
    · rw [runSteps_of_halted hs] at hrun
      rw [← Host.Outcome.next.inj hrun]
    · obtain ⟨u, hst, hrest⟩ := (runSteps_succ_next hs).mp hrun
      rw [runStores_succ_of_next hst, List.mem_append, not_or] at ha
      obtain ⟨hfirst, hlater⟩ := ha
      exact (ih hrest hlater).trans (step_read_of_not_mem hst hfirst)

theorem runCommand_read_of_not_mem {fuel : Nat} (hrun : runCommand fuel s = .next t)
    (ha : a ∉ runCommandStores fuel s) : t.dataStore.read a = s.dataStore.read a := by
  unfold runCommand at hrun
  unfold runCommandStores at ha
  split at hrun
  case h_1 => rw [← Host.Outcome.next.inj hrun, State.assemble_dataStore]
  case h_2 => rw [← Host.Outcome.next.inj hrun]
  case h_3 hs | h_4 hs =>
    rw [hs] at ha
    exact runSteps_read_of_not_mem hrun ha

/-- A run writes where one of its steps does; a halted state, which `RunsIn` does not leave, writes nothing. -/
theorem mem_runStores {n : Nat} : a ∈ runStores n s ↔ ∃ k w, k < n ∧ RunsIn k s w ∧ a ∈ stepStores w := by
  constructor
  · intro h
    induction n generalizing s with
    | zero => cases h
    | succ n ih =>
      rcases List.mem_append.mp h with hfirst | hlater
      · exact ⟨0, s, n.succ_pos, .done s, hfirst⟩
      · cases hst : step s with
        | fault | refused => simp [hst] at hlater
        | next u =>
          rw [hst] at hlater
          obtain ⟨k, w, hk, hrun, hw⟩ := ih hlater
          by_cases hs : s.Halted
          · obtain rfl := Host.Outcome.next.inj ((step_of_halted hs).symm.trans hst)
            exact ⟨k, w, hk.trans n.lt_succ_self, hrun, hw⟩
          · exact ⟨k + 1, w, Nat.succ_lt_succ hk, .step hs hst hrun, hw⟩
  · rintro ⟨k, w, hk, hrun, hw⟩
    induction hrun generalizing n with
    | done =>
      obtain ⟨n, rfl⟩ := Nat.exists_eq_succ_of_ne_zero hk.ne'
      exact List.mem_append_left _ hw
    | step _ hst _ ih =>
      obtain ⟨n, rfl⟩ := Nat.exists_eq_succ_of_ne_zero (Nat.ne_zero_of_lt hk)
      rw [runStores_succ_of_next hst]
      exact List.mem_append_right _ (ih (Nat.lt_of_succ_lt_succ hk) hw)

theorem mem_runCommandStores {fuel : Nat} : a ∈ runCommandStores fuel s ↔ s.Live ∧ a ∈ runStores fuel s := by
  unfold runCommandStores State.Live
  cases s.status <;> simp

end

/-! ### What the snapshot lists -/

theorem cellAt_foldl_insertCell (m : Memory) (a : Word) (addrs : List Word) (cells : List Host.Cell) :
    cellAt a.toNat (addrs.foldl (fun cells a => insertCell a.toNat (m.read a) cells) cells) =
      if a ∈ addrs then some (m.read a) else cellAt a.toNat cells := by
  induction addrs generalizing cells with
  | nil => simp
  | cons a' addrs ih =>
    rw [List.foldl_cons, ih]
    by_cases ha : a = a'
    · simp [ha, cellAt_insertCell_same]
    · rw [cellAt_insertCell_other _ _ _ _ (fun h => ha (BitVec.eq_of_toNat_eq h))]
      simp [ha]

theorem cellAt_writtenCells (m : Memory) (a : Word) (addrs : List Word) :
    cellAt a.toNat (writtenCells m addrs) = if a ∈ addrs then some (m.read a) else none :=
  cellAt_foldl_insertCell m a addrs []

/-- The snapshot of a state after a command that wrote `addrs` lists these addresses. -/
theorem State.listed_iff (s : State) (a : Word) (addrs : List Word) :
    cellAt a.toNat (s.snapshot addrs).written ≠ none ↔ a ∈ addrs := by
  rw [State.snapshot, cellAt_writtenCells]
  simp

section
variable {fuel : Nat} {s : State} {r : Reply}

theorem command_step_next (h : command fuel .step s = .next r) :
    step s = .next r.state ∧ r.snapshot = r.state.snapshot (stepStores s) := by
  rcases command_next h with ⟨_, hst, hsnap⟩ | ⟨hc, _⟩ | ⟨hc, _⟩
  · exact ⟨hst, hsnap⟩
  · cases hc
  · exact absurd rfl hc

theorem command_run_next (h : command fuel .run s = .next r) :
    runCommand fuel s = .next r.state ∧ r.snapshot = r.state.snapshot (runCommandStores fuel s) := by
  rcases command_next h with ⟨hc, _⟩ | ⟨_, hrun, hsnap⟩ | ⟨_, hc, _⟩
  · cases hc
  · exact ⟨hrun, hsnap⟩
  · exact absurd rfl hc

theorem step_lists_stored (h : command fuel .step s = .next r) (a : Word) :
    cellAt a.toNat r.snapshot.written ≠ none ↔ ∃ i, s.Live ∧ fetch s = .instr i ∧ a ∈ storedAddrs s i := by
  obtain ⟨_, hsnap⟩ := command_step_next h
  rw [hsnap, State.listed_iff, mem_stepStores]

theorem run_lists_stored (h : command fuel .run s = .next r) (a : Word) :
    cellAt a.toNat r.snapshot.written ≠ none ↔
      ∃ k w i, s.Live ∧ k < fuel ∧ RunsIn k s w ∧ w.Live ∧ fetch w = .instr i ∧ a ∈ storedAddrs w i := by
  obtain ⟨_, hsnap⟩ := command_run_next h
  rw [hsnap, State.listed_iff, mem_runCommandStores, mem_runStores]
  simp only [mem_stepStores]
  constructor
  · rintro ⟨hs, k, w, hk, hrun, i, hw, hf, ha⟩
    exact ⟨k, w, i, hs, hk, hrun, hw, hf, ha⟩
  · rintro ⟨k, w, i, hs, hk, hrun, hw, hf, ha⟩
    exact ⟨hs, k, w, hk, hrun, i, hw, hf, ha⟩

/-- Where the bytes outside `addrs` are unchanged, a snapshot that lists `addrs` accounts for the whole data store. -/
theorem State.snapshot_accounts {t : State} {addrs : List Word} {a : Word}
    (h : a ∉ addrs → t.dataStore.read a = s.dataStore.read a) :
    match cellAt a.toNat (t.snapshot addrs).written with
    | some b => t.dataStore.read a = b
    | none => t.dataStore.read a = s.dataStore.read a := by
  rw [State.snapshot, cellAt_writtenCells]
  by_cases ha : a ∈ addrs
  · rw [if_pos ha]
  · rw [if_neg ha]
    exact h ha

end

/-- Settles O51. -/
theorem writtenBytesAreReported : Obligations.WrittenBytesAreReported := by
  refine ⟨fun _ _ _ => step_lists_stored, fun _ _ _ => run_lists_stored, ?_, ?_⟩
  · rintro fuel s cmd r (rfl | rfl) h a
    · obtain ⟨hst, hsnap⟩ := command_step_next h
      rw [hsnap]
      exact State.snapshot_accounts (step_read_of_not_mem hst)
    · obtain ⟨hrun, hsnap⟩ := command_run_next h
      rw [hsnap]
      exact State.snapshot_accounts (runCommand_read_of_not_mem hrun)
  · intro i s t hx
    refine ⟨fun _ => exec_read_of_not_mem hx, fun hi => ?_⟩
    have hw := storeWidth_eq_zero hi
    exact ⟨storedAddrs_of_width_zero hw, exec_dataStore_of_width_zero hx hw⟩

/-! ### The program is frozen -/

theorem exec_keeps_program {i : Instr} {s t : State} (hx : exec i s = .next t) :
    t.stream = s.stream ∧ t.labels = s.labels ∧ t.progStore = s.progStore ∧ t.text = s.text ∧ t.params = s.params := by
  cases exec_shape hx with
  | continued u hu ht =>
    rw [ht]
    exact ⟨hu.stream, hu.labels, hu.progStore, hu.text, hu.params⟩
  | transferred _ _ _ _ ht | called _ _ _ _ _ _ ht | returned _ _ _ _ _ ht | halted _ _ ht | moveRaised _ ht
  | overflowed _ _ ht | lost _ _ _ _ ht =>
    rw [ht]
    exact ⟨rfl, rfl, rfl, rfl, rfl⟩

/-- Settles O50. -/
theorem programFrozenWhileRunning : Obligations.ProgramFrozenWhileRunning := by
  intro s t hs hst
  cases step_shape hst with
  | assembled hn _ => exact absurd hn hs
  | idle _ _ ht | exhausted _ _ ht | blank _ _ ht | unknown _ _ ht =>
    rw [ht]
    exact ⟨rfl, rfl, rfl, rfl, rfl⟩
  | ran i _ _ hx => exact exec_keeps_program (s := s.begin) hx

/-! ### The program store is not read

Each operation commutes with a change of the program store and the text; CMP, the one reader of the program store,
does so under `CMP_OPERAND_STORE = Data`. -/

/-- The state with another program store and another text. -/
def State.withImage (ps : ProgStore) (tx : Text) (s : State) : State :=
  { s with progStore := ps, text := tx }

/-- A result with its next state changed. -/
def mapNext (f : State → State) : Result → Result
  | .next s => .next (f s)
  | .fault r => .fault r
  | .refused r => .refused r

section
variable (ps : ProgStore) (tx : Text) (i : Instr) (s : State)

theorem State.load8_withImage (r : Acc) (src : Src8) :
    (s.withImage ps tx).load8 r src = (s.load8 r src).withImage ps tx := by
  cases r <;> rfl

theorem State.load16_withImage (r : IdxReg) (src : Src16) :
    (s.withImage ps tx).load16 r src = (s.load16 r src).withImage ps tx := by
  cases r <;> rfl

theorem State.store8_withImage (r : Acc) (m : MemOperand) :
    (s.withImage ps tx).store8 r m = (s.store8 r m).withImage ps tx := by
  cases r <;> rfl

theorem State.store16_withImage (r : IdxReg) (m : MemOperand) :
    (s.withImage ps tx).store16 r m = (s.store16 r m).withImage ps tx := by
  cases r <;> rfl

theorem State.setHOnAdd_withImage : (s.withImage ps tx).setHOnAdd = s.setHOnAdd.withImage ps tx := by
  have hp : (s.withImage ps tx).params = s.params := rfl
  unfold State.setHOnAdd
  rw [hp]
  cases s.params.hOnAdd <;> rfl

theorem State.add_withImage (r : Acc) (src : Src8) :
    (s.withImage ps tx).add r src = (s.add r src).withImage ps tx := by
  rw [State.add, State.add, ← State.setHOnAdd_withImage]
  cases r <;> rfl

theorem State.sub_withImage (r : Acc) (src : Src8) :
    (s.withImage ps tx).sub r src = (s.sub r src).withImage ps tx := by
  cases r <;> rfl

theorem State.unary_withImage (op : UnaryOp) (r : Acc) :
    (s.withImage ps tx).unary op r = (s.unary op r).withImage ps tx := by
  cases r <;> rfl

theorem State.logic_withImage (op : LogicOp) (r : Acc) (src : Src8) :
    (s.withImage ps tx).logic op r src = (s.logic op r src).withImage ps tx := by
  cases r <;> rfl

theorem State.pairReg_withImage (r : PairReg) : (s.withImage ps tx).pairReg r = s.pairReg r := by
  cases r <;> rfl

theorem State.setPairReg_withImage (r : PairReg) (w : Word) :
    (s.withImage ps tx).setPairReg r w = (s.setPairReg r w).withImage ps tx := by
  cases r <;> rfl

theorem State.holds_withImage (k : Cond) : (s.withImage ps tx).holds k = s.holds k := by
  cases k <;> rfl

variable {s} in
/-- The operand of CMP comes from the data store (42_add_sub_compare.md R274). -/
theorem State.operandC_withImage (hp : s.params.cmpOperandStore = .data) (src : Src8) :
    (s.withImage ps tx).operandC src = s.operandC src := by
  have hp' : (s.withImage ps tx).params.cmpOperandStore = .data := hp
  cases src with
  | imm ii => rfl
  | mem m =>
    simp only [State.operandC, hp, hp']
    rfl

variable {s} in
theorem State.cmp_withImage (hp : s.params.cmpOperandStore = .data) (r : Acc) (src : Src8) :
    (s.withImage ps tx).cmp r src = (s.cmp r src).withImage ps tx := by
  rw [State.cmp, State.operandC_withImage ps tx hp]
  cases r <;> rfl

theorem continueAfter_withImage :
    continueAfter i (s.withImage ps tx) = mapNext (.withImage ps tx) (continueAfter i s) := rfl

theorem transferTo_withImage (l : Label) :
    transferTo l (s.withImage ps tx) = mapNext (.withImage ps tx) (transferTo l s) := by
  have hl : (s.withImage ps tx).labels = s.labels := rfl
  rw [transferTo, transferTo, hl]
  cases s.labels.lookup l <;> rfl

theorem branch_withImage (k : Cond) (l : Label) :
    branch i k l (s.withImage ps tx) = mapNext (.withImage ps tx) (branch i k l s) := by
  rw [branch, branch, State.holds_withImage]
  split
  · exact transferTo_withImage ps tx s l
  · rfl

theorem call_withImage (l : Label) :
    call i l (s.withImage ps tx) = mapNext (.withImage ps tx) (call i l s) := by
  have hf : (s.withImage ps tx).stackFull = s.stackFull := rfl
  rw [call, call, hf]
  split
  · rfl
  · exact transferTo_withImage ps tx (s.push (s.nextPc i)) l

theorem returnFromCall_withImage :
    returnFromCall (s.withImage ps tx) = mapNext (.withImage ps tx) (returnFromCall s) := by
  have hstack : (s.withImage ps tx).callStack = s.callStack := rfl
  have hline : ∀ a, (s.withImage ps tx).lineAt? a = s.lineAt? a := fun _ => rfl
  rw [returnFromCall, returnFromCall, hstack]
  cases s.callStack.getLast? with
  | none => rfl
  | some a =>
    simp only [hline]
    cases s.lineAt? a <;> rfl

theorem transfer_withImage (r1 r2 : PairReg) :
    transfer i r1 r2 (s.withImage ps tx) = mapNext (.withImage ps tx) (transfer i r1 r2 s) := by
  have hm : (s.withImage ps tx).moveRaises r1 r2 = s.moveRaises r1 r2 := rfl
  rw [transfer, transfer, hm, State.pairReg_withImage, State.setPairReg_withImage]
  split <;> rfl

theorem exchange_withImage (r1 r2 : PairReg) :
    exchange i r1 r2 (s.withImage ps tx) = mapNext (.withImage ps tx) (exchange i r1 r2 s) := by
  have hm : (s.withImage ps tx).moveRaises r1 r2 = s.moveRaises r1 r2 := rfl
  simp only [exchange, hm, State.pairReg_withImage, State.setPairReg_withImage]
  split <;> rfl

variable {s} in
theorem exec_withImage (hp : s.params.cmpOperandStore = .data) :
    exec i (s.withImage ps tx) = mapNext (.withImage ps tx) (exec i s) := by
  cases execForm i with
  | load8 r src h => rw [h, h, State.load8_withImage, continueAfter_withImage]
  | load16 r src h => rw [h, h, State.load16_withImage, continueAfter_withImage]
  | store8 r m _ _ h => rw [h, h, State.store8_withImage, continueAfter_withImage]
  | store16 r m _ _ h => rw [h, h, State.store16_withImage, continueAfter_withImage]
  | add r src h => rw [h, h, State.add_withImage, continueAfter_withImage]
  | sub r src h => rw [h, h, State.sub_withImage, continueAfter_withImage]
  | cmp r src h => rw [h, h, State.cmp_withImage ps tx hp, continueAfter_withImage]
  | unary op r h => rw [h, h, State.unary_withImage, continueAfter_withImage]
  | logic op r src h => rw [h, h, State.logic_withImage, continueAfter_withImage]
  | nop h => rw [h, h, continueAfter_withImage]
  | transfer r1 r2 h => rw [h, h, transfer_withImage]
  | exchange r1 r2 h => rw [h, h, exchange_withImage]
  | jump l h => rw [h, h, transferTo_withImage]
  | branch k l h => rw [h, h, branch_withImage]
  | call l h => rw [h, h, call_withImage]
  | rts h => rw [h, h, returnFromCall_withImage]
  | halt r h => rw [h, h]; rfl

variable {s} in
/-- A step of an assembled core fetches from the line stream (R81, R99). -/
theorem step_withImage (hs : s.status ≠ .notAssembled) (hp : s.params.cmpOperandStore = .data) :
    step (s.withImage ps tx) = mapNext (.withImage ps tx) (step s) := by
  rcases s.live_or_halted with hn | hlive | hhalt
  · exact absurd hn hs
  · have hfetch : fetch (s.withImage ps tx) = fetch s := rfl
    rw [step_of_live (s := s.withImage ps tx) hlive, step_of_live hlive, hfetch]
    cases fetch s with
    | instr i => exact exec_withImage ps tx i (s := s.begin) hp
    | exhausted | blank | unknownMnemonic | malformed => rfl
  · rw [step_of_halted (s := s.withImage ps tx) hhalt, step_of_halted hhalt]
    rfl

end

/-- Settles O52. -/
theorem programStoreNotRead : Obligations.ProgramStoreNotRead := by
  intro s t ps tx hs hp hst
  calc step (s.withImage ps tx)
      _ = mapNext (.withImage ps tx) (step s) := step_withImage ps tx hs hp
      _ = .next (t.withImage ps tx) := by rw [hst, mapNext]

end Sys2Proof.Machine
end

section
/-!
The encoding family (30_encoding.md): the opcode ROM and the byte formats, the byte decoder as the inverse of the encoder,
the line decoder as the inverse of the writer, and the assembler, from the case of the text to the image it emits.
-/
namespace Sys2Proof
open Machine

/-! ### The opcode ROM -/

/-- Settles O2, on the closed table of R150. -/
theorem opcodeRomUnambiguous : Obligations.OpcodeRomUnambiguous :=
  ⟨rfl, rfl, by decide +kernel⟩

/-! ### The mnemonic of a row and its operand -/

/-- TFR and EXG are the mnemonics of the RegisterPair rows. -/
theorem Instr.mode_eq_registerPair_iff (i : Instr) :
    i.mode = .registerPair ↔ i.mnemonic = .tfr ∨ i.mnemonic = .exg := by
  have key : ∀ r ∈ rom, r.mode = .registerPair ↔ r.mnemonic = .tfr ∨ r.mnemonic = .exg := by decide +kernel
  exact key _ i.row_mem

/-- The width of an immediate is that of the row's register (R161). -/
theorem Instr.wideImmediate_of_imm8 {i : Instr} {ii : Byte} (h : i.operand = .imm8 ii) :
    i.mnemonic.wideImmediate = false := by
  have hp := i.parts_round_trip.1
  rw [h] at hp
  cases hm : i.mnemonic with
  | ldx | ldy | ldu | lds => rw [hm] at hp; cases hp
  | _ => rfl

theorem Instr.wideImmediate_of_imm16 {i : Instr} {v : Imm16} (h : i.operand = .imm16 v) :
    i.mnemonic.wideImmediate = true := by
  have hp := i.parts_round_trip.1
  rw [h] at hp
  cases hm : i.mnemonic with
  | ldx | ldy | ldu | lds => rfl
  | _ => rw [hm] at hp; cases hp

theorem Mnemonic.longTarget_iff (m : Mnemonic) : m.longTarget = true ↔ m = .jmp ∨ m = .jsr := by
  simp [Mnemonic.longTarget]

/-- Only JSR and BSR can be refused, and they have a label (R156). -/
theorem Instr.admitted_of_label?_eq_none {p : Params} {i : Instr} (h : i.label? = none) :
    i.mnemonic.admitted p = true := by
  cases i with
  | jsr | bsr => cases h
  | _ => rfl

/-- What well-formedness says of the mnemonic and of the operand. -/
theorem Instr.wellFormed_iff (p : Params) (i : Instr) :
    i.wellFormed p = true ↔ i.mnemonic.admitted p = true ∧
      (∀ l, i.operand = .label l → labelOk l = true) ∧ ∀ v, i.operand = .imm16 v → imm16Ok p v = true := by
  cases i with
  | ldxImmediate imm | ldyImmediate imm | lduImmediate imm | ldsImmediate imm =>
    exact ⟨fun h => ⟨rfl, nofun, fun _ hv => Operand.imm16.inj hv ▸ h⟩, fun ⟨_, _, himm⟩ => himm imm rfl⟩
  | jmp l | bra l | beq l | bne l | bmi l | bpl l | bcc l | bcs l | bvc l | bvs l =>
    exact ⟨fun h => ⟨rfl, fun _ hl => Operand.label.inj hl ▸ h, nofun⟩, fun ⟨_, hlabel, _⟩ => hlabel l rfl⟩
  | jsr l | bsr l =>
    cases hc : p.callInsns <;>
      simp [Instr.wellFormed, Instr.mnemonic, Instr.operand, Instr.parts, Mnemonic.admitted, hc]
  | _ => exact ⟨fun _ => ⟨rfl, nofun, nofun⟩, fun _ => rfl⟩

theorem Instr.opcode_ne_nil {i : Instr} (h : i ≠ .endProgram) : i.opcode ≠ [] := by
  intro ho
  exact h (Machine.Instr.eq_endProgram ((rom_opcode_length i.row_mem).2.mp ho))

/-! ### Sizes -/

theorem operandBytes_length (target : Label → Nat) (at_ : Nat) (m : Mnemonic) (o : Operand) :
    (operandBytes target at_ m o).length = operandSize m o := by
  rcases o with _ | _ | (_ | _) | (_ | _ | _) | l | _
  case label => simp only [operandBytes, operandSize]; split <;> rfl
  all_goals rfl

theorem operandSize_le_two (m : Mnemonic) (o : Operand) : operandSize m o ≤ 2 := by
  rcases o with _ | _ | (_ | _) | (_ | _ | _) | l | _
  case label => simp only [operandSize]; split <;> omega
  all_goals simp [operandSize]

@[simp] theorem encode_length (target : Label → Nat) (at_ : Nat) (i : Instr) :
    (encode target at_ i).length = i.size := by
  rw [encode, List.length_append, operandBytes_length, Instr.size]

/-- Settles O6: an opcode string and an operand have at most two bytes each. -/
theorem encodedLengthIsSize : Obligations.EncodedLengthIsSize := by
  intro target at_ i
  refine ⟨encode_length target at_ i, ?_, Instr.size_eq_zero, ?_⟩
  · have hop : i.opcode.length ≤ 2 := (rom_opcode_length i.row_mem).1
    have harg := operandSize_le_two i.mnemonic i.operand
    rw [Instr.size]
    omega
  · rintro rfl
    rfl

/-! ### The formats of operand bytes -/

/-- The RegisterPair post-byte holds the first register's code in its high nibble (R166). -/
theorem toNat_pairByte (k1 k2 : BitVec 4) : (k1 ++ k2 : Byte).toNat = 16 * k1.toNat + k2.toNat := by
  have h := k2.isLt
  rw [BitVec.toNat_append, Nat.shiftLeft_eq, Nat.mul_comm, ← Nat.two_pow_add_eq_or_of_lt h]

theorem toNat_hiByte (w : Word) : (hiByte w).toNat = w.toNat / 256 := by
  have h := w.isLt
  simp only [hiByte, BitVec.extractLsb'_toNat, Nat.shiftRight_eq_div_pow]
  omega

theorem toNat_loByte (w : Word) : (loByte w).toNat = w.toNat % 256 := by
  simp [loByte]

/-- R167: the displacement byte is the distance from the next instruction, modulo 256. -/
theorem toNat_displacement (at_ t : Nat) :
    ((displacement at_ t).toNat : Int) = ((t : Int) - ((at_ : Int) + 2)) % 256 := by
  rw [displacement, BitVec.toNat_ofInt]
  omega

/-- Settles O5, operand form by operand form. -/
theorem encodeFollowsFormats : Obligations.EncodeFollowsFormats := by
  intro target at_ i
  refine ⟨fun r off h => ?_, fun r1 r2 h => ?_, fun l h hjmp hjsr => ?_, fun l h hlong => ?_⟩
  · rw [encode, h]
    cases r <;> rfl
  · refine ⟨r1.code ++ r2.code, by rw [encode, h]; rfl, ?_⟩
    have h2 := r2.code.isLt
    rw [toNat_pairByte, show (16 * r1.code.toNat + r2.code.toNat) / 16 = r1.code.toNat by omega,
      show (16 * r1.code.toNat + r2.code.toNat) % 16 = r2.code.toNat by omega]
    congr 1
    · cases r1 <;> rfl
    · cases r2 <;> rfl
  · have hshort : i.mnemonic.longTarget = false := by simp [Mnemonic.longTarget, hjmp, hjsr]
    exact ⟨displacement at_ (target l), by simp [encode, h, operandBytes, hshort], toNat_displacement _ _⟩
  · have hl := (Mnemonic.longTarget_iff _).mpr hlong
    refine ⟨_, _, by rw [encode, h, operandBytes, if_pos hl], ?_⟩
    rw [toNat_hiByte, toNat_loByte, BitVec.toNat_ofNat]
    omega

/-! ### Decoding bytes -/

@[simp] theorem IdxReg.ofPostByte_postByte (r : IdxReg) : IdxReg.ofPostByte r.postByte = r := by
  cases r <;> rfl

@[simp] theorem PairReg.ofCode_code (r : PairReg) : PairReg.ofCode r.code = some r := by
  cases r <;> rfl

/-- The operand decoder reads back the operand bytes, where the decoder's width and the operand's are the same. -/
theorem decodeOperand_operandBytes {i : Instr} (target : Label → Nat) (at_ : Nat) (rest : List Byte)
    (hlabel : i.label? = none) (hbyte : ∀ ii, i.operand ≠ .imm16 (.byte ii)) :
    decodeOperand i.mnemonic i.mode (operandBytes target at_ i.mnemonic i.operand ++ rest) = .ok (i.operand, rest) := by
  rw [Instr.mode]
  cases ho : i.operand with
  | inherent => rfl
  | imm8 ii => simp [operandBytes, decodeOperand, Operand.mode, Instr.wideImmediate_of_imm8 ho]
  | imm16 v =>
    cases v with
    | byte ii => exact absurd ho (hbyte ii)
    | word v => simp [operandBytes, decodeOperand, Operand.mode, Instr.wideImmediate_of_imm16 ho]
  | mem m =>
    cases m with
    | direct nn => rfl
    | indexed r off => simp [operandBytes, decodeOperand, Operand.mode]
    | extended a => simp [operandBytes, decodeOperand, Operand.mode]
  | label l => simp [Instr.label?, ho] at hlabel
  | pair r1 r2 =>
    have hhi : (r1.code ++ r2.code : Byte).extractLsb' 4 4 = r1.code := BitVec.extractLsb'_append_eq_left
    have hlo : (r1.code ++ r2.code : Byte).extractLsb' 0 4 = r2.code := BitVec.extractLsb'_append_eq_right
    simp only [operandBytes, decodeOperand, Operand.mode, List.cons_append, List.nil_append, hhi, hlo,
      PairReg.ofCode_code]

/-- Settles O3: the opcode finds the row, and the row's operand decoder reads back the operand. -/
theorem decodeInvertsEncode : Obligations.DecodeInvertsEncode := by
  intro p target at_ i rest hend hlabel hbyte
  have hrow := findRow_opcode i.row_mem (Instr.opcode_ne_nil hend) (Instr.admitted_of_label?_eq_none (p := p) hlabel)
    (operandBytes target at_ i.mnemonic i.operand ++ rest)
  simp only at hrow
  have hoperand := decodeOperand_operandBytes target at_ rest hlabel hbyte
  simp only [decode, encode, List.append_assoc, hrow, List.drop_left, hoperand, i.parts_round_trip.1]

/-! ### Decoding at an address -/

/-- The bytes from an address on, where they are there, begin with the opcode string that stands there. -/
theorem opcodeWindow_of_opcode {m : ProgStore} {a : Word} {op : List Byte} (hlen : op.length ≤ 2) (hne : op ≠ [])
    (h : ∀ k b, op[k]? = some b → m.byte? (a + BitVec.ofNat 16 k) = some b) :
    ∃ rest, m.opcodeWindow a = op ++ rest := by
  match op, hlen, hne, h with
  | [b0], _, _, h =>
    have h0 : m.byte? a = some b0 := by simpa using h 0 b0 rfl
    unfold ProgStore.opcodeWindow
    rw [h0]
    cases m.byte? (a + 1) with
    | none => exact ⟨[], rfl⟩
    | some b => exact ⟨[b], rfl⟩
  | [b0, b1], _, _, h =>
    have h0 : m.byte? a = some b0 := by simpa using h 0 b0 rfl
    have h1 : m.byte? (a + 1) = some b1 := h 1 b1 rfl
    exact ⟨[], by unfold ProgStore.opcodeWindow; rw [h0, h1]; rfl⟩

/-- A byte of the window is the program-store byte at its address. -/
theorem byte?_of_opcodeWindow {m : ProgStore} {a : Word} {k : Nat} {b : Byte}
    (h : (m.opcodeWindow a)[k]? = some b) : m.byte? (a + BitVec.ofNat 16 k) = some b := by
  unfold ProgStore.opcodeWindow at h
  split at h
  · cases h
  · rename_i b0 h0 _
    match k, h with
    | 0, h => cases h; simpa using h0
  · rename_i b0 b1 h0 h1
    match k, h with
    | 0, h => cases h; simpa using h0
    | 1, h => cases h; exact h1

/-- R180: where a row's opcode string stands, `decode(address)` gives that row. -/
theorem decodeAt_of_opcode {p : Params} {m : ProgStore} {a : Word} {i : Instr} (hend : i ≠ .endProgram)
    (hadm : i.mnemonic.admitted p = true)
    (h : ∀ k b, i.opcode[k]? = some b → m.byte? (a + BitVec.ofNat 16 k) = some b) :
    m.decodeAt p a =
      some (i.mnemonic, i.mode, i.opcode.length + rowOperandSize ⟨i.mnemonic, i.mode, i.opcode⟩) := by
  have hne := Instr.opcode_ne_nil hend
  obtain ⟨rest, hw⟩ := opcodeWindow_of_opcode (rom_opcode_length i.row_mem).1 hne h
  rw [ProgStore.decodeAt, hw, findRow_opcode i.row_mem hne hadm rest]
  rfl

/-- The operand bytes of the row are those of the instruction, unless it has a one-byte 16-bit immediate (log 11). -/
theorem rowOperandSize_eq {i : Instr} (h : ∀ ii, i.operand ≠ .imm16 (.byte ii)) :
    rowOperandSize ⟨i.mnemonic, i.mode, i.opcode⟩ = operandSize i.mnemonic i.operand := by
  simp only [rowOperandSize, Instr.mode]
  cases ho : i.operand with
  | imm8 ii => simp [Operand.mode, operandSize, Instr.wideImmediate_of_imm8 ho]
  | imm16 v =>
    cases v with
    | byte ii => exact absurd ho (h ii)
    | word v => simp [Operand.mode, operandSize, Instr.wideImmediate_of_imm16 ho]
  | mem m => cases m <;> rfl
  | inherent | label | pair => rfl

/-- The bytes of an encoding begin with the opcode. -/
theorem encode_getElem?_of_opcode {target : Label → Nat} {at_ k : Nat} {i : Instr} {b : Byte}
    (h : i.opcode[k]? = some b) : (encode target at_ i)[k]? = some b := by
  rw [encode, List.getElem?_append_left (List.getElem?_eq_some_iff.mp h).1, h]

/-- A row that is found has an opcode string, which begins the bytes (R180). -/
theorem findRow_some {p : Params} {bs : List Byte} {r : RomRow} (h : findRow p bs = some r) :
    r ∈ rom ∧ r.opcode ≠ [] ∧ r.opcode <+: bs := by
  have hfound := List.find?_some h
  simp only [Bool.and_eq_true, Bool.not_eq_true', List.isEmpty_eq_false_iff, List.isPrefixOf_iff_prefix] at hfound
  obtain ⟨⟨hne, hpre⟩, _⟩ := hfound
  exact ⟨List.mem_of_find?_eq_some h, hne, hpre⟩

/-- Settles O4: the window of two bytes holds every opcode string, and nothing that is not there. -/
theorem decodeAtReturnsRow : Obligations.DecodeAtReturnsRow := by
  refine ⟨fun p target i m a hwf hend h => ?_, fun p m a h => ?_, fun p m a mn md n h => ?_⟩
  · obtain ⟨hadm, _, himm⟩ := (Instr.wellFormed_iff p i).mp hwf
    refine ⟨_, decodeAt_of_opcode hend hadm fun k b hk => h k b (encode_getElem?_of_opcode hk), fun hrule => ?_⟩
    rw [Instr.size, rowOperandSize_eq]
    intro ii ho
    simpa [imm16Ok, hrule] using himm _ ho
  · have hw : m.opcodeWindow a = [] := by
      unfold ProgStore.opcodeWindow
      rw [h]
    have hf : findRow p [] = none := by
      cases hf : findRow p [] with
      | none => rfl
      | some r =>
        obtain ⟨_, hne, hpre⟩ := findRow_some hf
        exact absurd (List.prefix_nil.mp hpre) hne
    rw [ProgStore.decodeAt, hw, hf, Option.map_none]
  · obtain ⟨r, hr, heq⟩ := Option.map_eq_some_iff.mp h
    obtain ⟨rfl, rfl, _⟩ : r.mnemonic = mn ∧ r.mode = md ∧ _ := by simpa using heq
    obtain ⟨hmem, hne, rest, hrest⟩ := findRow_some hr
    refine ⟨r.opcode, hne, romOpcode_of_mem hmem, fun k b hk => byte?_of_opcodeWindow ?_⟩
    rw [← hrest, List.getElem?_append_left (List.getElem?_eq_some_iff.mp hk).1, hk]

end Sys2Proof

namespace Sys2Proof
open Machine

/-! ### Writing an operand and reading it back -/

/-- The mode of an operand of a mnemonic other than TFR and EXG (R117). -/
theorem detectMode_some {mn t : Text} (hmn : ¬ (mn = Mnemonic.text .tfr ∨ mn = Mnemonic.text .exg)) (ht : t ≠ []) :
    detectMode mn (some t) =
      if t.head? = some '#' then .immediate
      else if ',' ∈ t then .indexed
      else if t.head? = some '$' then (if t.length - 1 ≤ 2 then .direct else .extended)
      else .relative := by
  rw [not_or] at hmn
  simp [detectMode, hmn, ht]

theorem comma_not_mem_hexByte (b : Byte) : ',' ∉ hexByte b := not_mem_hexByte comma_ne_hexChar

/-- The text of a label operand is neither empty nor of another form (R111, R114, R117). -/
theorem ne_of_labelOk {l : Label} (h : labelOk l = true) :
    l ≠ [] ∧ l.head? ≠ some '#' ∧ l.head? ≠ some '$' ∧ ',' ∉ l := by
  simp only [labelOk, Bool.and_eq_true, List.all_eq_true, bne_iff_ne, Bool.not_eq_true', List.isEmpty_eq_false_iff] at h
  obtain ⟨⟨⟨hne, hhash⟩, hdollar⟩, hall⟩ := h
  exact ⟨hne, hhash, hdollar, fun hc => (hall ',' hc).2 rfl⟩

theorem ofNat_hexWord (w : Word) : BitVec.ofNat 16 ((hiByte w).toNat * 256 + (loByte w).toNat) = w := by
  rw [toNat_hiByte, toNat_loByte, Nat.div_add_mod', BitVec.ofNat_toNat, BitVec.setWidth_eq]

theorem toNat_hexWord_lt (w : Word) : (hiByte w).toNat * 256 + (loByte w).toNat < 0x10000 := by
  have hhi := (hiByte w).isLt
  have hlo := (loByte w).isLt
  omega

/-- The mode is detected from the text of the operand (R117). -/
theorem detectMode_operand_text {p : Params} {i : Instr} (hwf : i.wellFormed p = true) :
    detectMode i.mnemonic.text i.operand.text = i.mode := by
  by_cases hpair : i.mnemonic = .tfr ∨ i.mnemonic = .exg
  · rw [i.mode_eq_registerPair_iff.mpr hpair]
    rcases hpair with h | h <;> rw [h] <;> rfl
  have hmn : ¬ (i.mnemonic.text = Mnemonic.text .tfr ∨ i.mnemonic.text = Mnemonic.text .exg) := fun h =>
    hpair (h.imp Mnemonic.text_inj Mnemonic.text_inj)
  have hmode := i.mode_eq_registerPair_iff.not.mpr hpair
  rw [Instr.mode] at hmode ⊢
  cases ho : i.operand with
  | inherent =>
    rw [not_or] at hmn
    simp [detectMode, Operand.text, Operand.mode, hmn]
  | imm8 ii => exact detectMode_some hmn (List.cons_ne_nil _ _)
  | imm16 v => cases v <;> exact detectMode_some hmn (List.cons_ne_nil _ _)
  | mem m =>
    cases m with
    | direct nn =>
      rw [Operand.text, MemOperand.text, detectMode_some hmn (List.cons_ne_nil _ _)]
      simp [comma_not_mem_hexByte, Operand.mode]
    | indexed r off =>
      rw [Operand.text, MemOperand.text, detectMode_some hmn (List.cons_ne_nil _ _)]
      simp [Operand.mode]
    | extended a =>
      rw [Operand.text, MemOperand.text, detectMode_some hmn (List.cons_ne_nil _ _)]
      simp [comma_not_mem_hexByte, Operand.mode]
  | label l =>
    obtain ⟨_, hlabel, _⟩ := (Instr.wellFormed_iff p i).mp hwf
    obtain ⟨hne, hhash, hdollar, hcomma⟩ := ne_of_labelOk (hlabel l ho)
    rw [Operand.text, detectMode_some hmn hne, if_neg hhash, if_neg hcomma, if_neg hdollar]
    rfl
  | pair r1 r2 => exact absurd (congrArg Operand.mode ho) hmode

section
variable {p : Params} {m : Mnemonic}

theorem parseImmediate_imm8 (hm : m.wideImmediate = false) (ii : Byte) :
    parseImmediate p m ('#' :: '$' :: hexByte ii) = some (.imm8 ii) := by
  have hlt : ii.toNat < 0x100 := ii.isLt
  simp [parseImmediate, immediatePayload, parseHex_hexByte, hm, hlt]

/-- A one-byte 16-bit immediate is read back where the size rule makes it one byte (R161). -/
theorem parseImmediate_byte (hm : m.wideImmediate = true) {ii : Byte} (h : imm16Ok p (.byte ii) = true) :
    parseImmediate p m ('#' :: '$' :: hexByte ii) = some (.imm16 (.byte ii)) := by
  have hlt : ii.toNat < 0x10000 := Nat.lt_trans ii.isLt (by decide)
  have hrule : p.immSizeRule = .literalDigits := by simpa [imm16Ok] using h
  simp [parseImmediate, immediatePayload, parseHex_hexByte, hm, hlt, hrule]

theorem parseImmediate_word (hm : m.wideImmediate = true) (v : Word) :
    parseImmediate p m ('#' :: '$' :: (hexByte (hiByte v) ++ hexByte (loByte v))) = some (.imm16 (.word v)) := by
  simp [parseImmediate, immediatePayload, parseHex_hexWord, hm, toNat_hexWord_lt, ofNat_hexWord]

end

theorem parseDirect_text (nn : Byte) : parseDirect ('$' :: hexByte nn) = some (.mem (.direct nn)) := by
  simp [parseDirect, parseHex_hexByte]

theorem parseExtended_text (a : Word) :
    parseExtended ('$' :: (hexByte (hiByte a) ++ hexByte (loByte a))) = some (.mem (.extended a)) := by
  simp [parseExtended, parseHex_hexWord, ofNat_hexWord]

theorem parseOffset_hexByte (b : Byte) : parseOffset ('$' :: hexByte b) = some b := by
  simp [parseOffset, parseHex_hexByte]

@[simp] theorem IdxReg.ofText_letter (r : IdxReg) : IdxReg.ofText [r.letter] = some r := by
  cases r <;> rfl

/-- An Indexed operand is split at its first comma, and what stands before it is the offset (R124, R125). -/
theorem parseIndexed_of_offset {t : Text} (r : IdxReg) (h : ',' ∉ t) :
    parseIndexed (t ++ [',', r.letter]) =
      match parseOffset t with
      | some b => .ok (.mem (.indexed r b))
      | none => .error .syntaxError := by
  have hne : ∀ c ∈ t, decide (c ≠ ',') = true := fun c hc => decide_eq_true fun he => h (he ▸ hc)
  have hdrop : (t ++ [',', r.letter]).dropWhile (· ≠ ',') = [',', r.letter] := by
    rw [List.dropWhile_append_of_pos hne]
    rfl
  have htake : (t ++ [',', r.letter]).takeWhile (· ≠ ',') = t := by
    rw [List.takeWhile_append_of_pos hne]
    exact List.append_nil t
  simp only [parseIndexed, hdrop, htake, List.tail_cons, IdxReg.ofText_letter]
  cases parseOffset t <;> rfl

theorem parsePair_letters (r1 r2 : PairReg) : parsePair [r1.letter, ',', r2.letter] = .ok (.pair r1 r2) := by
  cases r1 <;> cases r2 <;> rfl

/-- The operand is read back from its text. -/
theorem parseOperand_text {p : Params} {i : Instr} (hwf : i.wellFormed p = true) :
    parseOperand p i.mnemonic i.mode i.operand.text = .ok i.operand := by
  rw [Instr.mode]
  cases ho : i.operand with
  | inherent => rfl
  | imm8 ii => simp [parseOperand, Operand.mode, Operand.text, parseImmediate_imm8 (Instr.wideImmediate_of_imm8 ho)]
  | imm16 v =>
    have hwide := Instr.wideImmediate_of_imm16 ho
    cases v with
    | byte ii =>
      obtain ⟨_, _, himm⟩ := (Instr.wellFormed_iff p i).mp hwf
      simp [parseOperand, Operand.mode, Operand.text, parseImmediate_byte hwide (himm _ ho)]
    | word v => simp [parseOperand, Operand.mode, Operand.text, parseImmediate_word hwide]
  | mem m =>
    cases m with
    | direct nn => simp [parseOperand, Operand.mode, Operand.text, MemOperand.text, parseDirect_text]
    | indexed r off =>
      have hcomma : ',' ∉ '$' :: hexByte off := by simp [comma_not_mem_hexByte]
      have h := parseIndexed_of_offset r hcomma
      rw [parseOffset_hexByte] at h
      exact h
    | extended a => simp [parseOperand, Operand.mode, Operand.text, MemOperand.text, parseExtended_text]
  | label l => rfl
  | pair r1 r2 => exact parsePair_letters r1 r2

/-- Settles O8: the mode is found from the operand's text, and in that mode the text reads back. -/
theorem lineTextRoundTrip : Obligations.LineTextRoundTrip := by
  intro p i hwf
  obtain ⟨hadm, _, _⟩ := (Instr.wellFormed_iff p i).mp hwf
  exact decodeLine_of_parse hadm (detectMode_operand_text hwf) (parseOperand_text hwf)

/-! ### The offset of an Indexed operand -/

/-- A numeral has no sign and no `$`, so it is read as a positive offset. -/
theorem parseOffset_of_isNumeral {ds : Text} (h : IsNumeral decimalDigits ds) :
    parseOffset ds = signedOffset false ds := by
  cases ds with
  | nil => exact absurd rfl h.1
  | cons c cs =>
    have hne : ∀ x, x ∉ decimalDigits → c ≠ x := fun x hx he => hx (he ▸ h.2 c List.mem_cons_self)
    unfold parseOffset
    split
    · rename_i he; cases he
    · rename_i he; exact absurd (List.cons.inj he).1 (hne _ (by decide))
    · rename_i he; exact absurd (List.cons.inj he).1 (hne _ (by decide))
    · rename_i he; exact absurd (List.cons.inj he).1 (hne _ (by decide))
    · rfl

/-- An offset after `$` is one or two hexadecimal digits. -/
theorem parseOffset_dollar {ds : Text} {b : Byte} : parseOffset ('$' :: ds) = some b ↔
    ds.length ≤ 2 ∧ IsNumeral hexDigits ds ∧ b = BitVec.ofNat 8 (numeralValue hexDigits ds) := by
  simp only [parseOffset, Option.ite_none_right_eq_some, Option.map_eq_some_iff, parseHex_eq_some]
  refine and_congr_right fun _ => ⟨?_, ?_⟩
  · rintro ⟨v, ⟨hnum, rfl⟩, rfl⟩
    exact ⟨hnum, rfl⟩
  · rintro ⟨hnum, rfl⟩
    exact ⟨_, ⟨hnum, rfl⟩, rfl⟩

/-- The offset text that the signs and `$` tell apart (R125). -/
theorem parseOffset_cases (t : Text) :
    t = [] ∨ (∃ ds, t = '$' :: ds) ∨ (∃ ds, t = '-' :: ds ∧ parseOffset t = signedOffset true ds) ∨
      ∃ ds, (t = ds ∨ t = '+' :: ds) ∧ parseOffset t = signedOffset false ds := by
  unfold parseOffset
  split
  · exact .inl rfl
  · exact .inr (.inl ⟨_, rfl⟩)
  · exact .inr (.inr (.inl ⟨_, rfl, rfl⟩))
  · exact .inr (.inr (.inr ⟨_, .inr rfl, rfl⟩))
  · exact .inr (.inr (.inr ⟨_, .inl rfl, rfl⟩))

/-- Settles O7, by the character that the offset begins with. -/
theorem indexedOffsets : Obligations.IndexedOffsets := by
  refine ⟨fun t b => ⟨fun h => ?_, ?_⟩, fun t r => parseIndexed_of_offset r⟩
  · rcases parseOffset_cases t with rfl | ⟨ds, rfl⟩ | ⟨ds, rfl, hp⟩ | ⟨ds, ht, hp⟩
    · exact .inl ⟨rfl, (Option.some.inj h).symm⟩
    · obtain ⟨hlen, hnum, hb⟩ := parseOffset_dollar.mp h
      exact .inr (.inr (.inr ⟨ds, hnum, hlen, rfl, hb⟩))
    · obtain ⟨hnum, hle, hb⟩ := signedOffset_eq_some.mp (hp ▸ h)
      exact .inr (.inr (.inl ⟨ds, hnum, rfl, hle, hb⟩))
    · obtain ⟨hnum, hle, hb⟩ := signedOffset_eq_some.mp (hp ▸ h)
      exact .inr (.inl ⟨ds, hnum, ht, hle, hb⟩)
  · rintro (⟨rfl, rfl⟩ | ⟨ds, hnum, rfl | rfl, hle, hb⟩ | ⟨ds, hnum, rfl, hle, hb⟩ | ⟨ds, hnum, hlen, rfl, hb⟩)
    · rfl
    · exact (parseOffset_of_isNumeral hnum).trans (signedOffset_eq_some.mpr ⟨hnum, hle, hb⟩)
    · exact signedOffset_eq_some.mpr ⟨hnum, hle, hb⟩
    · exact signedOffset_eq_some.mpr ⟨hnum, hle, hb⟩
    · exact parseOffset_dollar.mpr ⟨hlen, hnum, hb⟩

end Sys2Proof

namespace Sys2Proof.Machine

/-! ### The case of the text -/

/-- `f` changes at most the case of `c`, and neither makes nor unmakes a line feed or a `;`. -/
def KeepsCase (f : Char → Char) (c : Char) : Prop :=
  (f c = '\n' ↔ c = '\n') ∧ (f c = ';' ↔ c = ';') ∧ upperChar (f c) = upperChar c

theorem keepsCase_of_ascii {f : Char → Char} (h : ∀ n, n < 128 → KeepsCase f (Char.ofNat n)) {c : Char}
    (hc : c.toNat < 128) : KeepsCase f c := by
  simpa only [Char.ofNat_toNat] using h c.toNat hc

theorem upperChar_keepsCase {c : Char} (hc : c.toNat < 128) : KeepsCase upperChar c := by
  refine keepsCase_of_ascii ?_ hc
  unfold KeepsCase
  decide +kernel

theorem toLower_keepsCase {c : Char} (hc : c.toNat < 128) : KeepsCase Char.toLower c := by
  refine keepsCase_of_ascii ?_ hc
  unfold KeepsCase
  decide +kernel

/-- A character of a line is one of the text. -/
theorem mem_of_mem_linesFrom {cur t line : Text} {c : Char} (hl : line ∈ linesFrom cur t) (hc : c ∈ line) :
    c ∈ cur ∨ c ∈ t := by
  induction t generalizing cur with
  | nil =>
    rw [linesFrom, List.mem_singleton] at hl
    exact .inl (hl ▸ hc)
  | cons x xs ih =>
    unfold linesFrom at hl
    split at hl
    · rcases List.mem_cons.mp hl with rfl | hl
      · exact .inl hc
      · exact .inr (List.mem_cons_of_mem x ((ih hl).resolve_left List.not_mem_nil))
    · simpa [or_assoc] using ih hl

section
variable {f : Char → Char}

theorem linesFrom_map (cur : Text) {t : Text} (h : ∀ c ∈ t, KeepsCase f c) :
    linesFrom (cur.map f) (t.map f) = (linesFrom cur t).map (List.map f) := by
  induction t generalizing cur with
  | nil => rfl
  | cons x xs ih =>
    obtain ⟨hx, hxs⟩ := List.forall_mem_cons.mp h
    simp only [List.map_cons, linesFrom, hx.1]
    split
    · exact congrArg _ (ih [] hxs)
    · simpa using ih (cur ++ [x]) hxs

theorem splitLines_map {t : Text} (h : ∀ c ∈ t, KeepsCase f c) :
    splitLines (t.map f) = (splitLines t).map (List.map f) :=
  linesFrom_map [] h

/-- A line is normalised to the same text in either case (R111 steps 1 to 3). -/
theorem normalise_map {raw : Text} (h : ∀ c ∈ raw, KeepsCase f c) : normalise (raw.map f) = normalise raw := by
  unfold normalise
  congr 1
  induction raw with
  | nil => rfl
  | cons x xs ih =>
    obtain ⟨⟨_, hsemi, hupper⟩, hxs⟩ := List.forall_mem_cons.mp h
    by_cases hx : x = ';'
    · subst hx
      simp [hsemi.mpr rfl]
    · simpa [hx, hsemi, hupper] using ih hxs

end

/-- Pass 1 reads the lines only through their normal form (R111). -/
theorem pass1From_map {g : Text → Text} {i : Nat} {labels : LabelTable} {raws : List Text}
    (h : ∀ raw ∈ raws, normalise (g raw) = normalise raw) :
    pass1From i labels (raws.map g) = pass1From i labels raws := by
  induction raws generalizing i labels with
  | nil => rfl
  | cons raw rest ih =>
    obtain ⟨hraw, hrest⟩ := List.forall_mem_cons.mp h
    simp only [List.map_cons, pass1From, hraw, ih hrest]

theorem assembleText_map {f : Char → Char} {p : Params} {text : Text} (h : ∀ c ∈ text, KeepsCase f c) :
    assembleText p (text.map f) = assembleText p text := by
  have hpass : pass1 (text.map f) = pass1 text := by
    rw [pass1, splitLines_map h]
    refine pass1From_map fun raw hraw => normalise_map fun c hc => h c ?_
    exact (mem_of_mem_linesFrom hraw hc).resolve_left List.not_mem_nil
  rw [assembleText, hpass, assembleText]

/-- Settles O9: within ASCII both maps change at most the case. -/
theorem caseIsIgnored : Obligations.CaseIsIgnored := by
  intro p text hascii
  exact ⟨assembleText_map fun c hc => upperChar_keepsCase (hascii c hc),
    assembleText_map fun c hc => toLower_keepsCase (hascii c hc)⟩

end Sys2Proof.Machine

namespace Sys2Proof.Machine

/-! ### Assembly and its errors -/

/-- Settles O10, by the two answers of the assembly. -/
theorem stepAssembles : Obligations.StepAssembles := by
  intro s hs
  have hstep : step s = .next s.assemble := by rw [step, hs]
  refine ⟨fun asm hasm => ?_, fun k n herr => ?_⟩
  · rw [hstep, State.assemble, hasm]
    rfl
  · rw [hstep, State.assemble, herr]

theorem assembleText_of_pass1_error {p : Params} {text : Text} {e : AsmError} (h : pass1 text = .error e) :
    assembleText p text = .error e := by
  rw [assembleText, h]

section
variable {p : Params} {text : Text} {lns : List Line} {labels : LabelTable}

theorem assembleText_of_pass2_error {e : AsmError} (h1 : pass1 text = .ok (lns, labels))
    (h2 : pass2From p labels 0 lns = .error e) : assembleText p text = .error e := by
  simp only [assembleText, h1, assembleLines, h2]

theorem assembleText_of_no_end (h1 : pass1 text = .ok (lns, labels)) (h2 : pass2From p labels 0 lns = .ok ())
    (h3 : endsWithEnd lns = false) : assembleText p text = .error (.missingEnd, none) := by
  simp [assembleText, h1, assembleLines, h2, h3]

theorem assembleText_of_fit_error {e : AsmError} (h1 : pass1 text = .ok (lns, labels))
    (h2 : pass2From p labels 0 lns = .ok ()) (h3 : endsWithEnd lns = true)
    (h4 : fitFrom p 0 Config.base lns = .error e) : assembleText p text = .error e := by
  simp [assembleText, h1, assembleLines, h2, h3, h4]

/-! ### The first line that a check refuses -/

/-- Pass 2 reports the first line that is not valid (R131). -/
theorem pass2From_error {i k : Nat} {ln : Line} {kind : ErrorKind} (hk : lns[k]? = some ln)
    (herr : validateLine p labels ln = .error kind)
    (hbefore : ∀ j ln', j < k → lns[j]? = some ln' → validateLine p labels ln' = .ok ()) :
    pass2From p labels i lns = .error (kind, some (i + k + 1)) := by
  induction lns generalizing i k with
  | nil => cases hk
  | cons x xs ih =>
    cases k with
    | zero =>
      cases hk
      simp only [pass2From, herr, Nat.add_zero]
    | succ k =>
      have hx := hbefore 0 x k.succ_pos rfl
      have hrec := ih (i := i + 1) hk fun j ln' hj => hbefore (j + 1) ln' (Nat.succ_lt_succ hj)
      rw [show i + 1 + k + 1 = i + (k + 1) + 1 by omega] at hrec
      simp only [pass2From, hx, hrec]

/-- The fit check reports the first line that does not fit (R175). -/
theorem fitFrom_error {pre : List Line} {k : Nat} {ln : Line} (hk : lns[k]? = some ln) (hblank : ln ≠ .blank)
    (hbig : p.programTop.toNat < lineAddr p (pre ++ lns) (pre.length + k) + max (lineSize p ln) 1 - 1)
    (hbefore : ∀ j ln', j < k → lns[j]? = some ln' → ln' ≠ .blank →
      lineAddr p (pre ++ lns) (pre.length + j) + max (lineSize p ln') 1 - 1 ≤ p.programTop.toNat) :
    fitFrom p pre.length (lineAddr p pre pre.length) lns = .error (.programTooLarge, some (pre.length + k + 1)) := by
  induction lns generalizing pre k with
  | nil => cases hk
  | cons x xs ih =>
    cases k with
    | zero =>
      cases hk
      rw [Nat.add_zero, lineAddr_append] at hbig
      rw [fitFrom, if_pos ⟨hblank, hbig⟩, Nat.add_zero]
    | succ k =>
      have hfits : ¬ (x ≠ .blank ∧ p.programTop.toNat < lineAddr p pre pre.length + max (lineSize p x) 1 - 1) := by
        rintro ⟨hx, hlt⟩
        have hle := hbefore 0 x k.succ_pos rfl hx
        rw [Nat.add_zero, lineAddr_append] at hle
        omega
      have hshift : ∀ j, (pre ++ [x]).length + j = pre.length + (j + 1) := fun j => by
        rw [List.length_append, List.length_singleton]
        omega
      have hrec := ih (pre := pre ++ [x]) hk
      rw [hshift, List.append_assoc, List.singleton_append, List.length_append, List.length_singleton,
        lineAddr_concat] at hrec
      rw [fitFrom, if_neg hfits]
      refine hrec hbig fun j ln' hj hj' hb => ?_
      rw [← List.length_singleton (a := x), ← List.length_append, hshift]
      exact hbefore (j + 1) ln' (Nat.succ_lt_succ hj) hj' hb

end

/-! ### END and the fit -/

/-- The mode detected from a line that decodes is that of a row (R130, check V2). -/
theorem exists_row_of_decodeLine {p : Params} {mn : Text} {op : Option Text} {i : Instr}
    (h : decodeLine p mn op = .ok i) : ∃ opcode, ⟨i.mnemonic, detectMode mn op, opcode⟩ ∈ rom := by
  have hm := decodeLine_ok_ofText h
  unfold decodeLine at h
  rw [hm] at h
  cases hr : romOpcode i.mnemonic (detectMode mn op) with
  | none => simp only [hr] at h; cases h
  | some opcode => exact ⟨opcode, romOpcode_eq_some hr⟩

/-- END takes no operand: any text selects another mode, for which END has no row (R117, R150). -/
theorem end_operand_eq_none {p : Params} {op : Option Text} {i : Instr}
    (h : decodeLine p (Mnemonic.text .endProgram) op = .ok i) (hop : op ≠ some []) : op = none := by
  have hrom : ∀ r ∈ rom, r.mnemonic = .endProgram → r.mode = .inherent := by decide +kernel
  have hi : i.mnemonic = .endProgram := (Mnemonic.text_inj (decodeLine_ok h).1).symm
  obtain ⟨opcode, hrow⟩ := exists_row_of_decodeLine h
  have hmode : detectMode (Mnemonic.text .endProgram) op = .inherent := hrom _ hrow hi
  cases op with
  | none => rfl
  | some t =>
    rw [detectMode_some (by decide) fun ht => hop (congrArg some ht)] at hmode
    repeat' split at hmode
    all_goals cases hmode

/-- In lines that pass both passes, the END check finds END with no operand (R133). -/
theorem endsWithEnd_iff_of_valid {p : Params} {text : Text} {lns : List Line} {labels : LabelTable}
    (h1 : pass1 text = .ok (lns, labels)) (h2 : pass2From p labels 0 lns = .ok ()) :
    endsWithEnd lns = true ↔
      ∃ pre post, lns = pre ++ .instr (Mnemonic.text .endProgram) none :: post ∧ ∀ ln ∈ post, ln = .blank := by
  rw [endsWithEnd_iff]
  constructor
  · rintro ⟨pre, op, post, hlns, hpost⟩
    have hmem : .instr (Mnemonic.text .endProgram) op ∈ lns := by simp [hlns]
    obtain ⟨i, hi, _⟩ := validateLine_ok (pass2From_ok.mp h2 _ hmem)
    obtain rfl := end_operand_eq_none hi (pass1_mem h1 hmem).2
    exact ⟨pre, post, hlns, hpost⟩
  · rintro ⟨pre, post, h⟩
    exact ⟨pre, none, post, h⟩

/-- Settles O11: of valid lines, the END check asks what R133 says. -/
theorem assembledEndsWithEnd : Obligations.AssembledEndsWithEnd := by
  refine ⟨fun p text asm h => ?_, fun p text lns labels h1 h2 hno => ?_⟩
  · obtain ⟨h1, h2, h3, _, _⟩ := assembleText_ok h
    exact (endsWithEnd_iff_of_valid h1 h2).mp h3
  · refine assembleText_of_no_end h1 h2 ?_
    rwa [← endsWithEnd_iff_of_valid h1 h2, Bool.not_eq_true] at hno

/-- Settles O12: the fit check is R175 at the addresses of the lines. -/
theorem assembledFits : Obligations.AssembledFits := by
  refine ⟨fun p text asm h i ln hln hblank => ?_, fun p text lns labels h1 h2 h3 k ln hk hblank hbig hbefore => ?_⟩
  · obtain ⟨_, _, _, hfit, _⟩ := assembleText_ok h
    simpa using (fitFrom_ok (pre := [])).mp hfit i ln hln hblank
  · refine assembleText_of_fit_error h1 h2 h3 ?_
    simpa using fitFrom_error (pre := []) hk hblank (by simpa using hbig) (by simpa using hbefore)

/-! ### The first line that pass 1 refuses -/

section
variable {raws : List Text} {lns : List Line} {labels table : LabelTable}

/-- Pass 1 over two stretches of lines is pass 1 over the second, from where the first ended. -/
theorem pass1From_append {i : Nat} (rest : List Text) (h : pass1From i labels raws = .ok (lns, table)) :
    pass1From i labels (raws ++ rest) =
      (pass1From (i + raws.length) table rest).map fun r => (lns ++ r.1, r.2) := by
  induction raws generalizing i labels lns with
  | nil =>
    cases h
    simp only [List.nil_append, List.length_nil, Nat.add_zero]
    cases pass1From i table rest <;> rfl
  | cons raw raws ih =>
    unfold pass1From at h
    split at h
    · rename_i labels' ln hd hl
      split at h
      · rename_i lns' table' hrec
        cases h
        rw [List.cons_append, pass1From, hd, hl]
        simp only [ih hrec, List.length_cons, Nat.add_assoc, Nat.add_comm 1]
        cases pass1From (i + (raws.length + 1)) table rest <;> rfl
      · cases h
    · cases h

/-- Pass 1 refuses a line whose declaration or whose tokens are an error. -/
theorem pass1From_cons_error {i : Nat} {raw : Text} (rest : List Text)
    (h : declare labels i (labelPart (normalise raw)) = none ∨
      lineOfTokens (tokens (instrPart (normalise raw))) = none) :
    pass1From i labels (raw :: rest) = .error (.syntaxError, some (i + 1)) := by
  rw [pass1From]
  rcases h with h | h
  · rw [h]
  · rw [h]
    cases declare labels i (labelPart (normalise raw)) <;> rfl

end

section
variable {text : Text}

/-- After the lines before line `k`, the table has the labels that those lines declare. -/
theorem lookup_isSome_iff_declared {k : Nat} {lns : List Line} {table : LabelTable}
    (h : pass1From 0 [] ((splitLines text).take k) = .ok (lns, table)) (l : Label) :
    (table.lookup l).isSome = true ↔ ∃ j, j < k ∧ declaredLabel text j = some l := by
  obtain ⟨_, _, hlook⟩ := pass1From_ok h
  simp only [Option.isSome_iff_exists, hlook, declaredLabel, Option.bind_eq_some_iff, List.getElem?_take,
    Option.ite_none_right_eq_some, Nat.zero_add]
  constructor
  · rintro ⟨t, h | ⟨j, raw, ⟨hj, hraw⟩, hl, _⟩⟩
    · cases h
    · exact ⟨j, hj, raw, hraw, hl⟩
  · rintro ⟨j, hj, raw, hraw, hl⟩
    exact ⟨j, .inr ⟨j, raw, ⟨hj, hraw⟩, hl, rfl⟩⟩

/-- A line has an error of pass 1 exactly when pass 1 refuses it, after the lines before it (R114, R115). -/
theorem passOneError_iff_refused {k : Nat} {raw : Text} {lns : List Line} {table : LabelTable}
    (hraw : (splitLines text)[k]? = some raw)
    (h : pass1From 0 [] ((splitLines text).take k) = .ok (lns, table)) :
    PassOneError text k ↔ declare table k (labelPart (normalise raw)) = none ∨
      lineOfTokens (tokens (instrPart (normalise raw))) = none := by
  have hdecl : declaredLabel text k = labelPart (normalise raw) := by rw [declaredLabel, hraw, Option.bind_some]
  simp only [PassOneError, hdecl, hraw, declare_eq_none, lineOfTokens_eq_none, lookup_isSome_iff_declared h,
    Option.some.injEq, exists_eq_left']

/-- Pass 1 reads the lines before the first error. -/
theorem pass1_take_of_no_error {k : Nat} (hk : k ≤ (splitLines text).length)
    (h : ∀ j, j < k → ¬ PassOneError text j) :
    ∃ lns table, pass1From 0 [] ((splitLines text).take k) = .ok (lns, table) := by
  induction k with
  | zero => exact ⟨[], [], rfl⟩
  | succ k ih =>
    obtain ⟨lns, table, hpre⟩ := ih (by omega) fun j hj => h j (by omega)
    have hraw := List.getElem?_eq_getElem (l := splitLines text) (i := k) (by omega)
    have hok := h k (by omega)
    rw [passOneError_iff_refused hraw hpre, not_or] at hok
    obtain ⟨table', hd⟩ := Option.ne_none_iff_exists'.mp hok.1
    obtain ⟨ln, hl⟩ := Option.ne_none_iff_exists'.mp hok.2
    refine ⟨lns ++ [ln], table', ?_⟩
    rw [List.take_add_one, hraw, pass1From_append _ hpre, List.length_take_of_le (by omega), Nat.zero_add]
    simp only [Option.toList_some, pass1From, hd, hl, Except.map]

/-- Pass 1 reports the first line with an error. -/
theorem pass1_error_of_first {k : Nat} (hk : PassOneError text k) (h : ∀ j, j < k → ¬ PassOneError text j) :
    pass1 text = .error (.syntaxError, some (k + 1)) := by
  have hlt : k < (splitLines text).length := by
    by_contra hge
    have hnone : (splitLines text)[k]? = none := List.getElem?_eq_none (by omega)
    rcases hk with ⟨l, hl, _⟩ | ⟨raw, hraw, _⟩
    · rw [declaredLabel, hnone] at hl
      cases hl
    · rw [hnone] at hraw
      cases hraw
  have hraw := List.getElem?_eq_getElem hlt
  obtain ⟨lns, table, hpre⟩ := pass1_take_of_no_error hlt.le h
  have hbad := pass1From_cons_error ((splitLines text).drop (k + 1)) ((passOneError_iff_refused hraw hpre).mp hk)
  rw [pass1, ← List.take_append_drop k (splitLines text), pass1From_append _ hpre, List.length_take_of_le hlt.le,
    Nat.zero_add, List.drop_eq_getElem_cons hlt, hbad]
  rfl

theorem pass1_ok_of_no_error (h : ∀ k, ¬ PassOneError text k) : ∃ lns labels, pass1 text = .ok (lns, labels) := by
  have hall := pass1_take_of_no_error (Nat.le_refl _) fun j _ => h j
  rwa [List.take_length] at hall

end

/-- Settles O14: pass 1 and pass 2 both stop at the first line they refuse. -/
theorem firstFailingLineReported : Obligations.FirstFailingLineReported := by
  refine ⟨fun p text k hk h => assembleText_of_pass1_error (pass1_error_of_first hk h),
    fun text h => pass1_ok_of_no_error h, fun p text e h => assembleText_of_pass1_error h,
    fun p text lns labels h1 k ln kind hk herr hbefore => assembleText_of_pass2_error h1 ?_⟩
  rw [pass2From_error hk herr hbefore, Nat.zero_add]

/-- Settles O15: pass 1 begins with an empty table. -/
theorem labelsNameDeclaringLines : Obligations.LabelsNameDeclaringLines := by
  intro p text asm h l t
  obtain ⟨_, _, hlook⟩ := pass1From_ok (assembleText_ok h).1
  rw [hlook]
  constructor
  · rintro (h0 | ⟨k, raw, hraw, hl, rfl⟩)
    · cases h0
    · exact ⟨raw, (Nat.zero_add k).symm ▸ hraw, hl⟩
  · rintro ⟨raw, hraw, hl⟩
    exact .inr ⟨t, raw, hraw, hl, (Nat.zero_add t).symm⟩

/-! ### Addresses -/

section
variable {p : Params} {text : Text} {asm : Assembled}

/-- No line's address wraps (10_state.md R43). -/
theorem lineAddr_lt_of_assembled (h : assembleText p text = .ok asm) (j : Nat) : lineAddr p asm.stream j < 0x10000 :=
  State.ProgramOk.addr_lt (s := State.install { State.reset with params := p } asm) ⟨text, asm, h, rfl, rfl, rfl⟩ j

/-- A line of an assembled program decodes. -/
theorem exists_decodeLine_of_assembled (h : assembleText p text = .ok asm) {i : Nat} {mn : Text} {op : Option Text}
    (hln : asm.stream[i]? = some (.instr mn op)) : ∃ ins, decodeLine p mn op = .ok ins := by
  obtain ⟨_, h2, _⟩ := assembleText_ok h
  obtain ⟨ins, hins, _⟩ := validateLine_ok (pass2From_ok.mp h2 _ (List.mem_of_getElem? hln))
  exact ⟨ins, hins⟩

end

/-- Settles O18: every line but END and blank ones has a size, and addresses never fall. -/
theorem addressesRise : Obligations.AddressesRise := by
  intro p text asm h
  refine ⟨lineAddr_zero p asm.stream, fun i _ => Nat.le_of_lt_succ (lineAddr_lt_of_assembled h i), ?_⟩
  intro i j mn op hln hmn hij
  obtain ⟨ins, hins⟩ := exists_decodeLine_of_assembled h hln
  have hpos : 0 < lineSize p (.instr mn op) := lineSize_pos hins fun he => hmn (by rw [(decodeLine_ok hins).1, he]; rfl)
  calc lineAddr p asm.stream i
      _ < lineAddr p asm.stream i + lineSize p (.instr mn op) := by omega
      _ = lineAddr p asm.stream (i + 1) := (lineAddr_succ hln).symm
      _ ≤ lineAddr p asm.stream j := lineAddr_mono hij

/-! ### Emission -/

section
variable (p : Params) (target : Label → Nat)

theorem lineBytes_length (at_ : Nat) (ln : Line) : (lineBytes p target at_ ln).length = lineSize p ln := by
  cases ln with
  | blank => rfl
  | instr mn op =>
    simp only [lineBytes, lineSize]
    cases decodeLine p mn op with
    | ok i => exact encode_length target at_ i
    | error k => rfl

theorem emitFrom_length (at_ : Nat) (lns : List Line) :
    (emitFrom p target at_ lns).length = (lns.map (lineSize p)).sum := by
  induction lns generalizing at_ with
  | nil => rfl
  | cons ln rest ih => simp [emitFrom, lineBytes_length, ih]

theorem emitFrom_append (at_ : Nat) (pre post : List Line) :
    emitFrom p target at_ (pre ++ post) =
      emitFrom p target at_ pre ++ emitFrom p target (at_ + (pre.map (lineSize p)).sum) post := by
  induction pre generalizing at_ with
  | nil => rfl
  | cons ln rest ih => simp [emitFrom, ih, Nat.add_assoc]

end

/-- The image ends at the address just past the last line. -/
theorem base_add_emitFrom_length (p : Params) (target : Label → Nat) (stream : List Line) :
    Config.base + (emitFrom p target Config.base stream).length = lineAddr p stream stream.length := by
  rw [emitFrom_length, lineAddr, List.take_length]

/-- A line's bytes stand in the emitted bytes after those of the lines before it. -/
theorem emitFrom_getElem? {p : Params} {target : Label → Nat} {stream : List Line} {i : Nat} {ln : Line}
    (hln : stream[i]? = some ln) {k : Nat} {b : Byte}
    (hb : (lineBytes p target (lineAddr p stream i) ln)[k]? = some b) :
    (emitFrom p target Config.base stream)[((stream.take i).map (lineSize p)).sum + k]? = some b := by
  obtain ⟨hi, rfl⟩ := List.getElem?_eq_some_iff.mp hln
  have hk := (List.getElem?_eq_some_iff.mp hb).1
  have hsplit : emitFrom p target Config.base stream = emitFrom p target Config.base (stream.take i) ++
      (lineBytes p target (lineAddr p stream i) stream[i] ++
        emitFrom p target (lineAddr p stream i + lineSize p stream[i]) (stream.drop (i + 1))) := by
    conv_lhs => rw [← List.take_append_drop i stream, List.drop_eq_getElem_cons hi, emitFrom_append]
    rfl
  rw [hsplit, List.getElem?_append_right (by rw [emitFrom_length]; omega), emitFrom_length, Nat.add_sub_cancel_left,
    List.getElem?_append_left hk, hb]

/-- The bytes of a line stand from its address on (R176). -/
theorem cellAt_emit {p : Params} {stream : List Line} {labels : LabelTable} {i : Nat} {ln : Line}
    (hln : stream[i]? = some ln) {k : Nat} {b : Byte}
    (hb : (lineBytes p (labelAddr p stream labels) (lineAddr p stream i) ln)[k]? = some b) :
    cellAt (lineAddr p stream i + k) (emit p stream labels) = some b := by
  have hbyte := emitFrom_getElem? hln hb
  rw [emit, cellAt_placeBytes, lineAddr, Nat.add_assoc, if_pos (Nat.le_add_right _ _), Nat.add_sub_cancel_left, hbyte]

theorem mem_placeBytes {at_ : Nat} {bs : List Byte} {e : Host.Cell} (h : e ∈ placeBytes at_ bs) :
    at_ ≤ e.1 ∧ e.1 < at_ + bs.length := by
  induction bs generalizing at_ with
  | nil => cases h
  | cons b bs ih =>
    rw [List.length_cons]
    rcases List.mem_cons.mp h with rfl | h
    · exact ⟨Nat.le_refl at_, by omega⟩
    · have := ih h
      omega

/-- Placed bytes are in canonical form (20_memory.md R81). -/
theorem placeBytes_wf {at_ : Nat} {bs : List Byte} (h : at_ + bs.length ≤ 0x10000) :
    ProgStore.wf (placeBytes at_ bs) = true := by
  rw [ProgStore.wf, cellsRising_iff]
  refine ⟨?_, fun e he => Nat.lt_of_lt_of_le (mem_placeBytes he).2 h⟩
  clear h
  induction bs generalizing at_ with
  | nil => exact List.Pairwise.nil
  | cons b bs ih => exact List.pairwise_cons.mpr ⟨fun e he => (mem_placeBytes he).1, ih⟩

/-- Settles O16. The image is canonical because the address past the last line does not wrap. -/
theorem emissionPlacesEncodings : Obligations.EmissionPlacesEncodings := by
  intro p text asm h
  obtain ⟨_, _, _, _, himage⟩ := assembleText_ok h
  have hend := base_add_emitFrom_length p (labelAddr p asm.stream asm.labels) asm.stream
  rw [himage]
  refine ⟨fun i mn op ins hln hins k b hb => cellAt_emit hln ?_, fun a ha => ?_, placeBytes_wf ?_⟩
  · simpa only [lineBytes, hins] using hb
  · rw [emit, cellAt_placeBytes]
    split
    · rename_i hle
      have hbase : Config.base = 0xFE00 := rfl
      exact List.getElem?_eq_none (by omega)
    · rfl
  · rw [hend]
    exact (lineAddr_lt_of_assembled h _).le

/-! ### Decoding the image -/

/-- Settles O17: the opcode of a line stands at its address, and no address up to the end of the line wraps. -/
theorem imageDecodesBack : Obligations.ImageDecodesBack := by
  intro p text asm h i mn op ins hln hins hend
  refine ⟨_, decodeAt_of_opcode hend (decodeLine_ok hins).2.1 fun k b hk => ?_⟩
  obtain ⟨hstands, _, _⟩ := emissionPlacesEncodings p text asm h
  have hcell := hstands i mn op ins hln hins k b (encode_getElem?_of_opcode hk)
  have hnext : lineAddr p asm.stream (i + 1) = lineAddr p asm.stream i + ins.size := by
    rw [lineAddr_succ hln, lineSize, hins]
  have hk : k < ins.opcode.length := (List.getElem?_eq_some_iff.mp hk).1
  have hlt := lineAddr_lt_of_assembled h (i + 1)
  have haddr : (BitVec.ofNat 16 (lineAddr p asm.stream i) + BitVec.ofNat 16 k).toNat = lineAddr p asm.stream i + k := by
    rw [← BitVec.ofNat_add, BitVec.toNat_ofNat, Nat.mod_eq_of_lt]
    rw [Instr.size] at hnext
    omega
  rw [ProgStore.byte?, haddr, hcell]

end Sys2Proof.Machine

end

section
/-!
The execution family (40_execution_cycle.md): what a step finds at its line and that only a line which validation refuses
stops it, operand forms, placed words, runs as chains of steps, and the commands of the host.
-/
namespace Sys2Proof
open Machine

/-! ### Words of the opcode table -/

/-- The byte decoder's names for targets are legal labels: a letter and hexadecimal digits. -/
theorem labelOk_cons_L {ds : Text} (h : ∀ c ∈ ds, ∃ d, d < 16 ∧ c = hexChar d) :
    labelOk ('L' :: ds) = true := by
  have key : ∀ d, d < 16 → labelOk ['L', hexChar d] = true := by decide
  simp only [labelOk, List.all_cons, List.all_nil, Bool.and_true, Bool.and_eq_true, List.all_eq_true] at key ⊢
  obtain ⟨hhead, hL, _⟩ := key 0 (by decide)
  refine ⟨hhead, hL, fun c hc => ?_⟩
  obtain ⟨d, hd, rfl⟩ := h c hc
  obtain ⟨_, _, hdigit⟩ := key d hd
  exact hdigit

theorem labelOk_shortTargetName (dd : Byte) : labelOk (shortTargetName dd) = true :=
  labelOk_cons_L fun _ hc => mem_hexByte hc

theorem labelOk_longTargetName (a : Word) : labelOk (longTargetName a) = true :=
  labelOk_cons_L fun _ hc => (List.mem_append.mp hc).elim mem_hexByte mem_hexByte

/-- The operand decoder gives legal labels and no one-byte 16-bit immediate (logs 9 and 11). -/
theorem decodeOperand_ok {m : Mnemonic} {md : Mode} {bs rest : List Byte} {o : Operand}
    (h : decodeOperand m md bs = .ok (o, rest)) :
    (∀ l, o = .label l → labelOk l = true) ∧ ∀ ii, o ≠ .imm16 (.byte ii) := by
  unfold decodeOperand at h
  split at h
  case h_2 => -- Immediate
    split at h
    · split at h <;> cases h
      exact ⟨nofun, nofun⟩
    · cases h
      exact ⟨nofun, nofun⟩
  case h_6 => -- Relative
    split at h
    · split at h <;> cases h
      exact ⟨fun l hl => Operand.label.inj hl ▸ labelOk_longTargetName _, nofun⟩
    · cases h
      exact ⟨fun l hl => Operand.label.inj hl ▸ labelOk_shortTargetName _, nofun⟩
  case h_7 => -- RegisterPair
    split at h <;> cases h
    exact ⟨nofun, nofun⟩
  case h_8 => cases h -- bytes missing
  case h_1 | h_3 | h_4 | h_5 =>
    cases h
    exact ⟨nofun, nofun⟩

/-- The parts of an instruction that the byte decoder reads. -/
theorem decode_ok {p : Params} {bs rest : List Byte} {i : Instr} (h : decode p bs = .ok (i, rest)) :
    ∃ md bs', decodeOperand i.mnemonic md bs' = .ok (i.operand, rest) := by
  unfold decode at h
  split at h
  · cases h
  · rename_i row _
    split at h
    · cases h
    · rename_i o rest' ho
      split at h
      · rename_i j hj
        cases h
        obtain ⟨hm, hop⟩ := Instr.ofParts_some hj
        exact ⟨row.mode, _, hm ▸ hop ▸ ho⟩
      · cases h

theorem Mnemonic.admitted_of_callInsns {p : Params} (h : p.callInsns = .admitted) (m : Mnemonic) :
    m.admitted p = true := by
  simp [Mnemonic.admitted, h]

/-- A table word decodes to an instruction that is well formed under every size rule. -/
theorem wellFormed_of_decodeTableWord {p : Params} {nbits w : Nat} {i : Instr} (h : decodeTableWord nbits w = some i)
    (hp : p.callInsns = .admitted) : i.wellFormed p = true := by
  unfold decodeTableWord at h
  split at h
  · cases h
    rfl
  · split at h
    · rename_i j rest hdec
      cases h
      obtain ⟨md, bs, ho⟩ := decode_ok hdec
      obtain ⟨hlabel, hbyte⟩ := decodeOperand_ok ho
      refine (Instr.wellFormed_iff p i).mpr ⟨Mnemonic.admitted_of_callInsns hp _, hlabel, fun v hv => ?_⟩
      cases v with
      | byte ii => exact absurd hv (hbyte ii)
      | word _ => rfl
    · cases h

end Sys2Proof

namespace Sys2Proof.Machine

/-! ### Reading a line -/

section
variable {p : Params} {ln : Line} {mn : Text} {op : Option Text} {i : Instr}

theorem readLine_of_decodeLine (h : decodeLine p mn op = .ok i) : readLine p (.instr mn op) = .instr i := by
  simp only [readLine, decodeLine_ok_ofText h, h]

theorem readLine_of_ofText_none (h : Mnemonic.ofText p mn = none) : readLine p (.instr mn op) = .unknownMnemonic := by
  simp only [readLine, h]

theorem decodeLine_of_readLine_instr (h : readLine p ln = .instr i) :
    ∃ mn op, ln = .instr mn op ∧ decodeLine p mn op = .ok i := by
  cases ln with
  | blank => cases h
  | instr mn op =>
    simp only [readLine] at h
    split at h
    · cases h
    · split at h
      · rename_i j hj
        cases h
        exact ⟨mn, op, rfl, hj⟩
      · cases h

theorem decodeLine_of_readLine_malformed {k : ErrorKind} (h : readLine p ln = .malformed k) :
    ∃ mn op, ln = .instr mn op ∧ decodeLine p mn op = .error k := by
  cases ln with
  | blank => cases h
  | instr mn op =>
    simp only [readLine] at h
    split at h
    · cases h
    · split at h
      · cases h
      · rename_i k' hk
        cases h
        exact ⟨mn, op, rfl, hk⟩

end

section
variable {s : State} {ln : Line}

theorem fetch_of_line (h : s.stream[s.line]? = some ln) : fetch s = readLine s.params ln := by
  simp only [fetch, h]

theorem fetch_of_length_le (h : s.stream.length ≤ s.line) : fetch s = .exhausted := by
  simp only [fetch, List.getElem?_eq_none h]

end

/-- Settles O19. -/
theorem stepRunsDecodedInstruction : Obligations.StepRunsDecodedInstruction := by
  intro s mn op i hs hln hi
  rw [step_of_live hs, fetch_of_line hln, readLine_of_decodeLine hi]
  rfl

/-- Settles O22, by what the fetch finds. -/
theorem stepWithoutInstruction : Obligations.StepWithoutInstruction := by
  intro s hs
  rw [step_of_live hs]
  refine ⟨fun hend => ?_, fun hln => ?_, fun mn op hln hmn => ?_⟩
  · rw [fetch_of_length_le hend]
    rfl
  · rw [fetch_of_line hln]
    rfl
  · rw [fetch_of_line hln, readLine_of_ofText_none hmn]
    rfl

/-! ### Operand forms -/

theorem toNat_joinBytes (h l : Byte) : (joinBytes h l).toNat = h.toNat * 256 + l.toNat := by
  have hhi := toNat_hiByte (joinBytes h l)
  have hlo := toNat_loByte (joinBytes h l)
  rw [hiByte_joinBytes] at hhi
  rw [loByte_joinBytes] at hlo
  omega

/-- Adding a sign-extended byte adds its signed value, modulo 65536 (R220). -/
theorem toNat_add_signExtend (w : Word) (off : Byte) :
    ((w + off.signExtend 16).toNat : Int) = (w.toNat + off.toInt) % 65536 := by
  have hoff : (off.signExtend 16).toInt = off.toInt := BitVec.toInt_signExtend_of_le (by decide)
  rw [← hoff, BitVec.toInt_eq_toNat_cond, BitVec.toNat_add]
  split <;> omega

/-- Settles O28. -/
theorem operandForms : Obligations.OperandForms := by
  intro s
  refine ⟨fun nn => toNat_joinBytes _ _, fun _ => rfl, fun r off => toNat_add_signExtend _ _, fun _ => rfl, fun _ => rfl,
    fun _ => rfl, fun ii => ?_, fun m => toNat_joinBytes _ _⟩
  have hii := ii.isLt
  rw [State.operand16, imm16Value, BitVec.toNat_setWidth, Nat.mod_eq_of_lt (by omega)]

/-! ### Steps that fault -/

/-- The answer of instruction `i` is a next state, or the fault of its label, which the table does not hold. -/
inductive NextOrUnbound (i : Instr) (s : State) : Result → Prop where
  | next (t : State) : NextOrUnbound i s (.next t)
  | unbound {l : Label} (hl : i.label? = some l) (hk : s.labels.lookup l = none) :
      NextOrUnbound i s (.fault (.unboundLabel l))

theorem transferTo_of_unbound {l : Label} {s : State} (h : s.labels.lookup l = none) :
    transferTo l s = .fault (.unboundLabel l) := by
  simp only [transferTo, h]

section
variable {i : Instr} {s : State}

/-- A transfer may follow a change of the state that leaves the label table. -/
theorem NextOrUnbound.transferTo {u : State} {l : Label} (hl : i.label? = some l) (hu : u.labels = s.labels) :
    NextOrUnbound i s (transferTo l u) := by
  cases hk : u.labels.lookup l with
  | none =>
    rw [transferTo_of_unbound hk]
    exact .unbound hl (hu ▸ hk)
  | some t =>
    simp only [Machine.transferTo, hk]
    exact .next _

theorem NextOrUnbound.branch {k : Cond} {l : Label} (hl : i.label? = some l) :
    NextOrUnbound i s (branch i k l s) := by
  unfold Machine.branch
  split
  · exact .transferTo hl rfl
  · exact .next _

theorem NextOrUnbound.call {l : Label} (hl : i.label? = some l) : NextOrUnbound i s (call i l s) := by
  unfold Machine.call
  split
  · exact .next _
  · exact .transferTo hl rfl

theorem NextOrUnbound.returnFromCall : NextOrUnbound i s (returnFromCall s) := by
  unfold Machine.returnFromCall
  split
  · exact .next _
  · split <;> exact .next _

theorem NextOrUnbound.transfer {r1 r2 : PairReg} : NextOrUnbound i s (transfer i r1 r2 s) := by
  unfold Machine.transfer
  split <;> exact .next _

theorem NextOrUnbound.exchange {r1 r2 : PairReg} : NextOrUnbound i s (exchange i r1 r2 s) := by
  unfold Machine.exchange
  split <;> exact .next _

end

/-- Only a transfer can fail to answer a next state, and then its label is not in the table. -/
theorem exec_nextOrUnbound (i : Instr) (s : State) : NextOrUnbound i s (exec i s) := by
  cases i with
  | jmp l => exact .transferTo rfl rfl
  | bra l => exact .branch (k := .always) rfl
  | beq l | bne l | bmi l | bpl l | bcc l | bcs l | bvc l | bvs l => exact .branch rfl
  | jsr l | bsr l => exact .call rfl
  | rts => exact .returnFromCall
  | tfr r1 r2 => exact .transfer
  | exg r1 r2 => exact .exchange
  | _ => exact .next _

/-- The current line is one that validation refuses (30_encoding.md R130). -/
def State.AtInvalidLine (s : State) : Prop :=
  ∃ mn op, s.stream[s.line]? = some (.instr mn op) ∧ validateLine s.params s.labels (.instr mn op) ≠ .ok ()

section
variable {s : State}

theorem atInvalidLine_of_malformed {k : ErrorKind} (h : fetch s = .malformed k) : s.AtInvalidLine := by
  obtain ⟨ln, hln, hread⟩ := exists_line_of_fetch h nofun
  obtain ⟨mn, op, rfl, herr⟩ := decodeLine_of_readLine_malformed hread
  refine ⟨mn, op, hln, fun hvalid => ?_⟩
  obtain ⟨i, hi, _⟩ := validateLine_ok hvalid
  cases herr.symm.trans hi

/-- Check V6 refuses a line that names an undeclared label. -/
theorem atInvalidLine_of_unbound {i : Instr} {l : Label} (h : fetch s = .instr i) (hl : i.label? = some l)
    (hk : s.labels.lookup l = none) : s.AtInvalidLine := by
  obtain ⟨ln, hln, hread⟩ := exists_line_of_fetch h nofun
  obtain ⟨mn, op, rfl, hi⟩ := decodeLine_of_readLine_instr hread
  refine ⟨mn, op, hln, fun hvalid => ?_⟩
  obtain ⟨i', hi', hbound⟩ := validateLine_ok hvalid
  obtain rfl := Except.ok.inj (hi.symm.trans hi')
  obtain ⟨t, ht⟩ := hbound l hl
  cases hk.symm.trans ht

/-- A step answers a next state, or faults in a live state at a line that validation refuses. -/
theorem step_next_or_fault (s : State) :
    (∃ t, step s = .next t) ∨ ∃ f, step s = .fault f ∧ s.Live ∧ s.AtInvalidLine := by
  rcases s.live_or_halted with hn | hs | hh
  · exact .inl ⟨s.assemble, by rw [step, hn]⟩
  · rw [step_of_live hs]
    cases hf : fetch s with
    | exhausted | blank | unknownMnemonic => exact .inl ⟨_, rfl⟩
    | malformed k => exact .inr ⟨_, rfl, hs, atInvalidLine_of_malformed hf⟩
    | instr i =>
      have hx := exec_nextOrUnbound i s.begin
      dsimp only
      generalize exec i s.begin = o at hx ⊢
      cases hx with
      | next t => exact .inl ⟨t, rfl⟩
      | unbound hl hk => exact .inr ⟨_, rfl, hs, atInvalidLine_of_unbound hf hl hk⟩
  · exact .inl ⟨s, step_of_halted hh⟩

end

/-- Settles O20: a step that does not answer a next state stands at a line that validation refuses. -/
theorem faultsNeedUnvalidatedLine : Obligations.FaultsNeedUnvalidatedLine := by
  refine ⟨fun s f h => ?_, fun s r h => ?_, fun s l hl => ⟨?_, fun k hk => ?_, fun hroom => ?_⟩⟩
  · rcases step_next_or_fault s with ⟨t, ht⟩ | ⟨_, _, hs, hline⟩
    · cases h.symm.trans ht
    · exact ⟨hs, hline⟩
  · rcases step_next_or_fault s with ⟨t, ht⟩ | ⟨f, hf, _⟩
    · cases h.symm.trans ht
    · cases h.symm.trans hf
  · exact transferTo_of_unbound hl
  · have hexec : exec (.branch k l) s = branch (.branch k l) k l s := by cases k <;> rfl
    rw [hexec, branch, if_pos hk, transferTo_of_unbound hl]
  · have hcall : ∀ i, call i l s = .fault (.unboundLabel l) := fun i => by
      have hfull : s.stackFull = false := by simpa [State.stackFull] using hroom
      rw [call, hfull, if_neg Bool.false_ne_true]
      exact transferTo_of_unbound hl
    exact ⟨hcall (.jsr l), hcall (.bsr l)⟩

/-! ### Assembled programs -/

/-- Settles O13. -/
theorem assembledLinesDecode : Obligations.AssembledLinesDecode := by
  intro p text asm h mn op hmem
  obtain ⟨hpass1, hpass2, _⟩ := assembleText_ok h
  obtain ⟨i, hi, hbound⟩ := validateLine_ok (pass2From_ok.mp hpass2 _ hmem)
  refine ⟨i, hi, fun l hl => ?_⟩
  obtain ⟨t, ht⟩ := hbound l hl
  exact ⟨t, ht, pass1_lookup_lt hpass1 ht⟩

theorem State.ProgramOk.not_atInvalidLine {s : State} (h : s.ProgramOk) : ¬ s.AtInvalidLine := by
  obtain ⟨text, asm, hasm, hstream, hlabels, _⟩ := h
  rintro ⟨mn, op, hln, hbad⟩
  obtain ⟨_, hpass2, _⟩ := assembleText_ok hasm
  rw [hstream] at hln
  rw [hlabels] at hbad
  exact hbad (pass2From_ok.mp hpass2 _ (List.mem_of_getElem? hln))

/-- Settles O56: the lines of a sound state passed validation. -/
theorem soundStatesStep : Obligations.SoundStatesStep := by
  intro s h
  rcases step_next_or_fault s with hnext | ⟨_, _, hs, hline⟩
  · exact hnext
  · exact absurd hline (h.assembled (ne_notAssembled_of_live hs)).1.not_atInvalidLine

/-! ### Commands on sound states -/

/-- A reset core is the reset state but for the text, the parameters and the draws (log 15). -/
theorem State.toReset_sound (s : State) : s.toReset.Sound where
  __ := (resetIsSound : State.reset.Sound)
  half := fun _ => rfl
  depth := fun d _ => Nat.zero_le d
  assembled := fun hs => absurd rfl hs

/-- The text is the host's, and no clause of the invariant reads it (10_state.md R57). -/
theorem loadProgram_sound (text : Text) (s : State) : (loadProgram text s).Sound :=
  { s.toReset_sound with }

section
variable {s : State}

theorem State.Sound.assembleCommand (h : s.Sound) : (assembleCommand s).Sound := by
  unfold Machine.assembleCommand
  split
  · rename_i hs
    exact h.assemble hs
  all_goals exact s.toReset_sound

theorem State.Sound.step (h : s.Sound) : ∃ t, step s = .next t ∧ t.Sound := by
  obtain ⟨t, ht⟩ := soundStatesStep s h
  exact ⟨t, ht, stepKeepsSound s t h ht⟩

theorem State.Sound.runSteps (h : s.Sound) (n : Nat) : ∃ t, runSteps n s = .next t ∧ t.Sound := by
  induction n generalizing s with
  | zero => exact ⟨s, rfl, h⟩
  | succ n ih =>
    by_cases hs : s.Halted
    · exact ⟨s, runSteps_of_halted hs _, h⟩
    · obtain ⟨u, hu, hsound⟩ := h.step
      obtain ⟨t, ht, htsound⟩ := ih hsound
      exact ⟨t, (runSteps_succ_next hs).mpr ⟨u, hu, ht⟩, htsound⟩

theorem State.Sound.runCommand (h : s.Sound) (fuel : Nat) : ∃ t, runCommand fuel s = .next t ∧ t.Sound := by
  unfold Machine.runCommand
  split
  case h_1 hs => exact ⟨_, rfl, h.assemble hs⟩
  case h_2 => exact ⟨s, rfl, h⟩
  case h_3 | h_4 => exact h.runSteps fuel

end

theorem replyTo_sound {complete : Bool} {addrs : List Word} {o : Result} (h : ∃ t, o = .next t ∧ t.Sound) :
    ∃ r, replyTo complete addrs o = .next r ∧ r.state.Sound := by
  obtain ⟨t, rfl, ht⟩ := h
  exact ⟨_, rfl, ht⟩

/-- Settles O57, command by command. -/
theorem commandsKeepSound : Obligations.CommandsKeepSound := by
  intro fuel cmd s h
  cases cmd with
  | assemble => exact ⟨_, rfl, h.assembleCommand⟩
  | step => exact replyTo_sound h.step
  | run => exact replyTo_sound (h.runCommand fuel)
  | reset => exact ⟨_, rfl, s.toReset_sound⟩
  | loadProgram text => exact ⟨_, rfl, loadProgram_sound text s⟩
  | saveProgram => exact ⟨_, rfl, h⟩

/-! ### Runs -/

/-- A bounded run is a chain of steps that stops at the first halt and else uses its bound (R225). -/
theorem runSteps_eq_next_iff {n : Nat} {s t : State} :
    runSteps n s = .next t ↔ ∃ k, k ≤ n ∧ RunsIn k s t ∧ (¬ t.Halted → k = n) := by
  induction n generalizing s with
  | zero =>
    constructor
    · rintro ⟨⟩
      exact ⟨0, Nat.le_refl 0, .done _, fun _ => rfl⟩
    · rintro ⟨k, hk, hrun, _⟩
      obtain rfl := Nat.le_zero.mp hk
      cases hrun
      rfl
  | succ n ih =>
    by_cases hs : s.Halted
    · rw [runSteps_of_halted hs]
      constructor
      · rintro ⟨⟩
        exact ⟨0, Nat.zero_le _, .done _, fun hn => absurd hs hn⟩
      · rintro ⟨k, _, hrun, _⟩
        rw [(hrun.of_halted hs).2]
    · rw [runSteps_succ_next hs]
      constructor
      · rintro ⟨u, hst, hrest⟩
        obtain ⟨k, hk, hrun, hfull⟩ := ih.mp hrest
        exact ⟨k + 1, Nat.succ_le_succ hk, .step hs hst hrun, fun hn => congrArg Nat.succ (hfull hn)⟩
      · rintro ⟨k, hk, hrun, hfull⟩
        cases hrun with
        | done => exact nomatch hfull hs
        | step _ hst hrest =>
          exact ⟨_, hst, ih.mpr ⟨_, Nat.le_of_succ_le_succ hk, hrest, fun hn => Nat.succ.inj (hfull hn)⟩⟩

/-- A chain of steps passes through each smaller number of steps, and not through a halted state. -/
theorem RunsIn.exists_of_le {n m : Nat} {s t : State} (h : RunsIn n s t) (ht : ¬ t.Halted) (hm : m ≤ n) :
    ∃ w, RunsIn m s w ∧ ¬ w.Halted := by
  induction h generalizing m with
  | done s =>
    obtain rfl := Nat.le_zero.mp hm
    exact ⟨s, .done s, ht⟩
  | @step k s u t hs hst _ ih =>
    cases m with
    | zero => exact ⟨s, .done s, hs⟩
    | succ m =>
      obtain ⟨w, hrun, hw⟩ := ih ht (Nat.le_of_succ_le_succ hm)
      exact ⟨w, .step hs hst hrun, hw⟩

/-- Settles O58, through the chain of steps that a run is. -/
theorem runStopsAtFirstHalt : Obligations.RunStopsAtFirstHalt := by
  refine ⟨fun n s t => runSteps_eq_next_iff, fun n s t h => ?_⟩
  obtain ⟨k, hk, hrun, hfull⟩ := runSteps_eq_next_iff.mp h
  refine ⟨fun ht m hm => ?_, fun ht m hm => ?_⟩
  · exact runSteps_eq_next_iff.mpr ⟨k, hk.trans hm, hrun, fun hn => absurd ht hn⟩
  · obtain rfl := hfull ht
    obtain ⟨w, hw, hn⟩ := hrun.exists_of_le ht hm
    exact ⟨w, runSteps_eq_next_iff.mpr ⟨m, Nat.le_refl m, hw, fun _ => rfl⟩, hn⟩

/-! ### Commands and their snapshots -/

/-- Settles O59, by the status. -/
theorem hostCommands : Obligations.HostCommands := by
  intro fuel s text
  have hsilent : ¬ s.Halted → s.reportsComplete = false := (State.reportsComplete_eq_false s).mpr
  refine ⟨fun hs => ?_, fun hs => ?_, fun hs => ?_, fun hs => ?_, fun hs => ?_, fun hs => ?_, fun hs => ?_, rfl, rfl, rfl⟩
  · rw [command, assembleCommand, step, hs]
    rfl
  · rw [command, assembleCommand]
    cases hst : s.status with
    | notAssembled => exact absurd hst hs
    | ready | running | halted => rfl
  · rw [command, hsilent hs]
  · rw [command, step_of_halted hs, (State.reportsComplete_iff s).mpr hs]
    obtain ⟨r, hr⟩ := hs
    rw [stepStores, hr]
    rfl
  · simp only [command, State.reportsComplete, runCommandStores, runCommand, step, hs]
  · rw [command, hsilent hs.not_halted]
    rcases hs with hs | hs <;> simp only [runCommandStores, runCommand, hs]
  · obtain ⟨r, hr⟩ := hs
    simp only [command, State.reportsComplete, runCommandStores, runCommand, hr, replyTo]

theorem command_snapshot {fuel : Nat} {cmd : Command} {s : State} {r : Reply} (h : command fuel cmd s = .next r) :
    ∃ addrs, r.snapshot = r.state.snapshot addrs := by
  rcases command_next h with ⟨_, _, hsnap⟩ | ⟨_, _, hsnap⟩ | ⟨_, _, _, hsnap⟩ <;> exact ⟨_, hsnap⟩

/-- Settles O60. -/
theorem snapshotListsWrittenBytes : Obligations.SnapshotListsWrittenBytes := by
  refine ⟨fun fuel cmd s r h => ?_, fun s addrs a => cellAt_writtenCells s.dataStore a addrs⟩
  obtain ⟨addrs, hsnap⟩ := command_snapshot h
  rw [hsnap]
  rfl

/-! ### Placed words -/

/-- Settles O21: the line written for the instruction decodes back to it (30_encoding.md R185). -/
theorem placedWordRuns : Obligations.PlacedWordRuns := by
  intro s nbits w i h hp
  have hplaced : s.withFetchWord nbits w = s.placeInstr i := by rw [State.withFetchWord, State.placeWord, h]
  rw [hplaced]
  exact stepRunsDecodedInstruction (s.placeInstr i) i.mnemonic.text i.operand.text i (.inl rfl) rfl
    (lineTextRoundTrip s.params i (wellFormed_of_decodeTableWord h hp))

end Sys2Proof.Machine
end

section
/-!
The load and store family (41_load_store.md): the operand and the opcode of each row, where pc stands after it, and the
state that each load and store answers.
-/
namespace Sys2Proof
open Machine

/-! ### Operands of loads and stores -/

/-- The operand of a row that reads a byte from `src`. -/
def Src8.operand : Src8 → Operand
  | .imm ii => .imm8 ii
  | .mem m => .mem m

/-- The operand of a row that reads a word from `src`. -/
def Src16.operand : Src16 → Operand
  | .imm v => .imm16 v
  | .mem m => .mem m

theorem operandSize_mem (mn : Mnemonic) (m : MemOperand) : operandSize mn (.mem m) = m.pick 1 2 2 := by
  cases m <;> rfl

theorem operandSize_src8 (mn : Mnemonic) (src : Src8) : operandSize mn src.operand = src.pick 1 1 2 2 := by
  rcases src with _ | (_ | _ | _) <;> rfl

theorem operandSize_src16 (mn : Mnemonic) (src : Src16) : operandSize mn src.operand = src.byteCount := by
  rcases src with (_ | _) | (_ | _ | _) <;> rfl

/-! ### The rows of a load -/

theorem load8_operand (r : Acc) (src : Src8) : (Instr.load8 r src).operand = src.operand := by
  cases r <;> rcases src with _ | (_ | _ | _) <;> rfl

theorem load16_operand (r : IdxReg) (src : Src16) : (Instr.load16 r src).operand = src.operand := by
  cases r <;> rcases src with _ | (_ | _ | _) <;> rfl

theorem load8_opcode (r : Acc) (src : Src8) :
    (Instr.load8 r src).opcode =
      [match r with
        | .a => src.pick 0x86 0x96 0xA6 0xB6
        | .b => src.pick 0xC6 0xD6 0xE6 0xF6] := by
  cases r <;> rcases src with _ | (_ | _ | _) <;> rfl

theorem load16_opcode (r : IdxReg) (src : Src16) :
    (Instr.load16 r src).opcode =
      match r with
      | .x => [src.pick 0x8E 0x9E 0xAE 0xBE]
      | .y => [0x10, src.pick 0x8E 0x9E 0xAE 0xBE]
      | .u => [src.pick 0xCE 0xDE 0xEE 0xFE]
      | .s => [0x10, src.pick 0xCE 0xDE 0xEE 0xFE] := by
  cases r <;> rcases src with _ | (_ | _ | _) <;> rfl

/-! ### The rows of a store -/

theorem store8_operand (r : Acc) (m : MemOperand) : (Instr.store8 r m).operand = .mem m := by
  cases r <;> cases m <;> rfl

theorem store16_operand (r : IdxReg) (m : MemOperand) : (Instr.store16 r m).operand = .mem m := by
  cases r <;> cases m <;> rfl

theorem store8_opcode (r : Acc) (m : MemOperand) :
    (Instr.store8 r m).opcode =
      match r with
      | .a => [m.pick 0x97 0xA7 0xB7]
      | .b => [m.pick 0xD7 0xE7 0xF7] := by
  cases r <;> cases m <;> rfl

theorem store16_opcode (r : IdxReg) (m : MemOperand) :
    (Instr.store16 r m).opcode =
      match r with
      | .x => [m.pick 0x9F 0xAF 0xBF]
      | .y => [0x10, m.pick 0x9F 0xAF 0xBF]
      | .u => [m.pick 0xDF 0xEF 0xFF]
      | .s => [0x10, m.pick 0xDF 0xEF 0xFF] := by
  cases r <;> cases m <;> rfl

theorem store8_width (r : Acc) (m : MemOperand) : storeWidth (Instr.store8 r m).mnemonic = 1 := by
  cases r <;> cases m <;> rfl

theorem store16_width (r : IdxReg) (m : MemOperand) : storeWidth (Instr.store16 r m).mnemonic = 2 := by
  cases r <;> cases m <;> rfl

/-- A mnemonic that stores has no Immediate row (R250, R252). -/
theorem romOpcode_immediate_of_stores {mn : Mnemonic} (h : storeWidth mn ≠ 0) : romOpcode mn .immediate = none := by
  have hrows : ∀ mn ∈ [Mnemonic.sta, .stb, .stx, .sty, .stu, .sts], romOpcode mn .immediate = none := by decide
  by_contra hne
  exact h (storeWidth_eq_zero fun hmem => hne (hrows mn hmem))

end Sys2Proof

namespace Sys2Proof.Machine

/-! ### pc after a load or a store -/

section
variable (s : State)

theorem nextPc_load8 (r : Acc) (src : Src8) : s.nextPc (.load8 r src) = s.pc + src.pick 2 2 3 3 := by
  rw [State.nextPc, Instr.size, load8_opcode, load8_operand, operandSize_src8]
  rcases src with _ | (_ | _ | _) <;> rfl

theorem nextPc_load16 (r : IdxReg) (src : Src16) :
    s.nextPc (.load16 r src) =
      s.pc + BitVec.ofNat 16 ((match r with | .x | .u => 1 | .y | .s => 2) + src.byteCount) := by
  rw [State.nextPc, Instr.size, load16_opcode, load16_operand, operandSize_src16]
  cases r <;> rfl

theorem nextPc_store8 (r : Acc) (m : MemOperand) : s.nextPc (.store8 r m) = s.pc + m.pick 2 3 3 := by
  rw [State.nextPc, Instr.size, store8_opcode, store8_operand, operandSize_mem]
  cases r <;> cases m <;> rfl

theorem nextPc_store16 (r : IdxReg) (m : MemOperand) :
    s.nextPc (.store16 r m) = s.pc + (match r with | .x | .u => m.pick 2 3 3 | .y | .s => m.pick 3 4 4) := by
  rw [State.nextPc, Instr.size, store16_opcode, store16_operand, operandSize_mem]
  cases r <;> cases m <;> rfl

/-! ### The state that a load or a store answers -/

theorem exec_load8 (r : Acc) (src : Src8) :
    exec (.load8 r src) s = .next ((s.load8 r src).advance (.load8 r src)) := by
  cases r <;> rcases src with _ | (_ | _ | _) <;> rfl

theorem exec_load16 (r : IdxReg) (src : Src16) :
    exec (.load16 r src) s = .next ((s.load16 r src).advance (.load16 r src)) := by
  cases r <;> rcases src with _ | (_ | _ | _) <;> rfl

theorem exec_store8 (r : Acc) (m : MemOperand) :
    exec (.store8 r m) s = .next ((s.store8 r m).advance (.store8 r m)) := by
  cases r <;> cases m <;> rfl

theorem exec_store16 (r : IdxReg) (m : MemOperand) :
    exec (.store16 r m) s = .next ((s.store16 r m).advance (.store16 r m)) := by
  cases r <;> cases m <;> rfl

end

/-! ### Loads -/

/-- Settles O24, register by register: the state answered is `State.load8`, moved on by the row's size. -/
theorem loadAccumulatorResult : Obligations.LoadAccumulatorResult := by
  intro s src
  refine ⟨load8_opcode .a src, ?_, load8_opcode .b src, ?_⟩
  all_goals
    rw [exec_load8, State.advance, nextPc_load8]
    rfl

/-- Settles O25, register by register: `State.load16` chooses N by `LOAD16_N_BIT` as R246 does. -/
theorem loadIndexResult : Obligations.LoadIndexResult := by
  intro s src
  refine ⟨load16_opcode .x src, ?_, load16_opcode .y src, ?_, load16_opcode .u src, ?_, load16_opcode .s src, ?_⟩
  all_goals
    rw [exec_load16, State.advance, nextPc_load16]
    rfl

/-! ### Stores -/

/-- Settles O26, from what a write of one byte reads back and leaves. -/
theorem storeAccumulatorResult : Obligations.StoreAccumulatorResult := by
  intro s m r
  have haddrs : storedAddrs s (.store8 r m) = [s.ea m] :=
    storedAddrs_of_width_one (store8_operand r m) (store8_width r m)
  have hnoImm : romOpcode (Instr.store8 r m).mnemonic .immediate = none :=
    romOpcode_immediate_of_stores (by rw [store8_width]; decide)
  refine ⟨store8_opcode r m, hnoImm, haddrs, _, exec_store8 s r m, ?_, fun hwf => ?_, fun a ha => ?_⟩
  · rw [State.advance, nextPc_store8]
    rfl
  · exact s.dataStore.read_write_same (s.ea m) (s.acc r) hwf
  · exact s.dataStore.read_write_other (s.ea m) a (s.acc r) ha

/-- Settles O27, from what a write of one word reads back and leaves, also where the second address wraps to 0. -/
theorem storeIndexResult : Obligations.StoreIndexResult := by
  intro s m r
  have haddrs : storedAddrs s (.store16 r m) = [s.ea m, s.ea m + 1] :=
    storedAddrs_of_width_two (store16_operand r m) (store16_width r m)
  have hnoImm : romOpcode (Instr.store16 r m).mnemonic .immediate = none :=
    romOpcode_immediate_of_stores (by rw [store16_width]; decide)
  have hdata : ((s.store16 r m).advance (.store16 r m)).dataStore = s.dataStore.write16 (s.ea m) (s.idx r) := rfl
  refine ⟨store16_opcode r m, hnoImm, haddrs, _, exec_store16 s r m, ?_, fun hwf => ⟨?_, ?_⟩, fun a ha ha' => ?_⟩
  · rw [State.advance, nextPc_store16]
    rfl
  · rw [hdata, Memory.read_write16_high _ _ hwf, toNat_hiByte]
  · rw [hdata, Memory.read_write16_low _ _ hwf, toNat_loByte]
  · rw [hdata, Memory.read_write16_other _ _ ha ha']

end Sys2Proof.Machine
end

section
/-!
The add, subtract and compare family (42_add_sub_compare.md): the opcode and the size of each row, the state that each
instruction answers, and V and C as the overflow of the signed and of the unsigned result.
-/
namespace Sys2Proof
open Machine

/-! ### The rows of an add, a subtract or a compare -/

theorem arith_operand (op : ArithOp) (r : Acc) (src : Src8) : (Instr.arith op r src).operand = src.operand := by
  cases op <;> cases r <;> rcases src with _ | (_ | _ | _) <;> rfl

theorem arith_opcode (op : ArithOp) (r : Acc) (src : Src8) :
    (Instr.arith op r src).opcode =
      [match op, r with
        | .add, .a => src.pick 0x8B 0x9B 0xAB 0xBB
        | .add, .b => src.pick 0xCB 0xDB 0xEB 0xFB
        | .sub, .a => src.pick 0x80 0x90 0xA0 0xB0
        | .sub, .b => src.pick 0xC0 0xD0 0xE0 0xF0
        | .cmp, .a => src.pick 0x81 0x91 0xA1 0xB1
        | .cmp, .b => src.pick 0xC1 0xD1 0xE1 0xF1] := by
  cases op <;> cases r <;> rcases src with _ | (_ | _ | _) <;> rfl

end Sys2Proof

namespace Sys2Proof.Machine

/-! ### V and C as overflows -/

/-- The mask of R276 and R277 picks the sign bit. -/
theorem and_signMask_ne_zero (x : Byte) : ((x &&& 0x80#8) != 0) = x.msb := by
  have hmask : x &&& 0x80#8 = if x.getLsbD 7 then 0x80#8 else 0#8 := BitVec.and_twoPow x 7
  rw [hmask, BitVec.msb_eq_getLsbD_last]
  cases x.getLsbD 7 <;> rfl

@[simp] theorem add8_r (a m : Byte) : (add8 a m).r = a + m := by rw [add8_eq]

@[simp] theorem sub8_r (a m : Byte) : (sub8 a m).r = a - m := by rw [sub8_eq]

/-- The sign of the sum differs from that of both operands exactly on signed overflow. -/
@[simp] theorem add8_v (a m : Byte) : (add8 a m).v = a.saddOverflow m := by
  have hv : (add8 a m).v = ((a.msb ^^ (a + m).msb) && (m.msb ^^ (a + m).msb)) := by
    simp only [add8_eq, and_signMask_ne_zero, BitVec.msb_and, BitVec.msb_xor]
  rw [hv, BitVec.saddOverflow_eq]
  cases a.msb <;> cases m.msb <;> simp

/-- The operands differ in sign, and the difference from the register, exactly on signed overflow. -/
@[simp] theorem sub8_v (a m : Byte) : (sub8 a m).v = a.ssubOverflow m := by
  have hv : (sub8 a m).v = ((a.msb ^^ m.msb) && (a.msb ^^ (a - m).msb)) := by
    simp only [sub8_eq, and_signMask_ne_zero, BitVec.msb_and, BitVec.msb_xor]
  rw [hv, BitVec.ssubOverflow_eq]
  cases a.msb <;> cases m.msb <;> simp

@[simp] theorem add8_c (a m : Byte) : (add8 a m).c = a.uaddOverflow m := by
  rw [add8_eq]
  rfl

@[simp] theorem sub8_c (a m : Byte) : (sub8 a m).c = a.usubOverflow m := by
  rw [sub8_eq]
  rfl

/-! ### Exact results at every width -/

section
variable {w : Nat} (x y : BitVec w)

theorem saddOverflow_eq_false_iff : x.saddOverflow y = false ↔ (x + y).toInt = x.toInt + y.toInt := by
  constructor
  · intro h
    exact BitVec.toInt_add_of_not_saddOverflow (by simp [h])
  · intro h
    have hlt := (x + y).toInt_lt
    have hle := (x + y).le_toInt
    rw [h] at hlt hle
    simp [BitVec.saddOverflow, hlt, hle]

theorem ssubOverflow_eq_false_iff : x.ssubOverflow y = false ↔ (x - y).toInt = x.toInt - y.toInt := by
  constructor
  · intro h
    exact BitVec.toInt_sub_of_not_ssubOverflow (by simp [h])
  · intro h
    have hlt := (x - y).toInt_lt
    have hle := (x - y).le_toInt
    rw [h] at hlt hle
    simp [BitVec.ssubOverflow, hlt, hle]

theorem uaddOverflow_eq_false_iff : x.uaddOverflow y = false ↔ (x + y).toNat = x.toNat + y.toNat := by
  constructor
  · intro h
    exact BitVec.toNat_add_of_not_uaddOverflow (by simp [h])
  · intro h
    have hlt := (x + y).isLt
    rw [h] at hlt
    simp [BitVec.uaddOverflow, hlt]

theorem usubOverflow_eq_false_iff :
    x.usubOverflow y = false ↔ ((x - y).toNat : Int) = (x.toNat : Int) - (y.toNat : Int) := by
  have hborrow : x.usubOverflow y = false ↔ y.toNat ≤ x.toNat := by simp [BitVec.usubOverflow]
  rw [hborrow]
  constructor
  · intro h
    rw [BitVec.toNat_sub_of_le (BitVec.le_def.mpr h), Nat.cast_sub h]
  · omega

end

/-! ### The operations on the state -/

section
variable (s : State)

@[simp] theorem State.acc_setNZVC (o : AluOut) (r : Acc) : (s.setNZVC o).acc r = s.acc r := by cases r <;> rfl

@[simp] theorem State.acc_setHOnAdd (r : Acc) : s.setHOnAdd.acc r = s.acc r := by cases r <;> simp [State.acc]

@[simp] theorem State.acc_advance (i : Instr) (r : Acc) : (s.advance i).acc r = s.acc r := by cases r <;> rfl

/-- R270 with `H_ON_ADD = Unchanged`: H is not written. -/
theorem State.add_of_unchanged (r : Acc) (src : Src8) (h : s.params.hOnAdd = .unchanged) :
    s.add r src =
      (s.setAcc r (s.acc r + s.operand8 src)).setNZVC (add8 (s.acc r) (s.operand8 src)) := by
  simp [State.add, State.setHOnAdd, h]

/-- R270 with `H_ON_ADD = Draw`: H takes the free value that the counter names. -/
theorem State.add_of_draw (r : Acc) (src : Src8) (h : s.params.hOnAdd = .draw) :
    s.add r src =
      { (s.setAcc r (s.acc r + s.operand8 src)).setNZVC (add8 (s.acc r) (s.operand8 src)) with
        h := Config.drawnH s.draws, draws := s.draws + 1 } := by
  simp [State.add, State.setHOnAdd, h]

section
variable (r : Acc) (src : Src8)

@[simp] theorem State.acc_add : (s.add r src).acc r = s.acc r + s.operand8 src := by simp [State.add]

@[simp] theorem State.add_v : (s.add r src).v = (s.acc r).saddOverflow (s.operand8 src) := by simp [State.add]

@[simp] theorem State.add_c : (s.add r src).c = (s.acc r).uaddOverflow (s.operand8 src) := by simp [State.add]

@[simp] theorem State.acc_sub : (s.sub r src).acc r = s.acc r - s.operand8 src := by simp [State.sub]

@[simp] theorem State.sub_v : (s.sub r src).v = (s.acc r).ssubOverflow (s.operand8 src) := by simp [State.sub]

@[simp] theorem State.sub_c : (s.sub r src).c = (s.acc r).usubOverflow (s.operand8 src) := by simp [State.sub]

end

theorem nextPc_arith (op : ArithOp) (r : Acc) (src : Src8) :
    s.nextPc (.arith op r src) = s.pc + src.pick 2 2 3 3 := by
  rw [State.nextPc, Instr.size, arith_opcode, arith_operand, operandSize_src8]
  rcases src with _ | (_ | _ | _) <;> rfl

theorem exec_add (r : Acc) (src : Src8) :
    exec (.arith .add r src) s = .next ((s.add r src).advance (.arith .add r src)) := by
  cases r <;> rcases src with _ | (_ | _ | _) <;> rfl

theorem exec_sub (r : Acc) (src : Src8) :
    exec (.arith .sub r src) s = .next ((s.sub r src).advance (.arith .sub r src)) := by
  cases r <;> rcases src with _ | (_ | _ | _) <;> rfl

theorem exec_cmp (r : Acc) (src : Src8) :
    exec (.arith .cmp r src) s = .next ((s.cmp r src).advance (.arith .cmp r src)) := by
  cases r <;> rcases src with _ | (_ | _ | _) <;> rfl

end

/-! ### The statements -/

/-- Settles O33: V and C are the overflows, and an overflow is what keeps the result from being exact. -/
theorem overflowAndCarryAreExact : Obligations.OverflowAndCarryAreExact := by
  intro s t r src
  constructor
  · intro h
    obtain rfl := Host.Outcome.next.inj ((exec_add s r src).symm.trans h)
    rw [State.acc_advance, State.advance_v, State.advance_c, State.acc_add, State.add_v, State.add_c]
    exact ⟨saddOverflow_eq_false_iff _ _, uaddOverflow_eq_false_iff _ _⟩
  · intro h
    obtain rfl := Host.Outcome.next.inj ((exec_sub s r src).symm.trans h)
    rw [State.acc_advance, State.advance_v, State.advance_c, State.acc_sub, State.sub_v, State.sub_c]
    exact ⟨ssubOverflow_eq_false_iff _ _, usubOverflow_eq_false_iff _ _⟩

/-- Settles O30, by the two values of `H_ON_ADD`. -/
theorem addResult : Obligations.AddResult := by
  intro s src m hh dd
  refine ⟨arith_opcode .add .a src, ?_, arith_opcode .add .b src, ?_⟩
  all_goals
    rw [exec_add, State.advance, nextPc_arith]
    simp only [ne_eq, decide_not, hh, dd]
    cases hH : s.params.hOnAdd with
    | unchanged =>
      rw [State.add_of_unchanged s _ src hH, add8_eq]
      rfl
    | draw =>
      rw [State.add_of_draw s _ src hH, add8_eq]
      rfl

/-- Settles O31. -/
theorem subResult : Obligations.SubResult := by
  intro s src m
  refine ⟨arith_opcode .sub .a src, ?_, arith_opcode .sub .b src, ?_⟩
  all_goals
    rw [exec_sub, State.advance, nextPc_arith, State.sub, sub8_eq]
    simp only [ne_eq, decide_not]
    rfl

/-- Settles O32: the operand is that of `State.operandC`, whose program-store read fills an empty address with 0x00. -/
theorem compareResult : Obligations.CompareResult := by
  intro s src m
  have hm : s.operandC src = m := by
    cases src <;> rfl
  refine ⟨arith_opcode .cmp .a src, ?_, arith_opcode .cmp .b src, ?_⟩
  all_goals
    rw [exec_cmp, State.advance, nextPc_arith, State.cmp, hm, sub8_eq]
    simp only [ne_eq, decide_not]
    rfl

end Sys2Proof.Machine
end

section
/-!
The increment, decrement, shift and rotate family (43_inc_dec_shift.md): the state that each inherent operation answers,
and shifts and rotates as arithmetic on the register and C.
-/
namespace Sys2Proof.Machine

/-! ### Bits as arithmetic -/

theorem getLsbD_seven_iff (x : Byte) : x.getLsbD 7 = true ↔ 128 ≤ x.toNat := by
  rw [show x.getLsbD 7 = x.msb from x.msb_eq_getLsbD_last.symm, BitVec.msb_eq_decide]
  exact decide_eq_true_iff

theorem getLsbD_zero_iff (x : Byte) : x.getLsbD 0 = true ↔ x.toNat % 2 = 1 := by
  simp [BitVec.getLsbD]

theorem beq_zero_iff_toNat (x : Byte) : (x == 0) = true ↔ x.toNat = 0 := by
  rw [beq_iff_eq]
  exact BitVec.toNat_inj.symm

theorem getLsbD_carryByte (c : Bool) (i : Nat) : (carryByte c).getLsbD i = (decide (i = 0) && c) := by
  cases i <;> cases c <;> simp [carryByte]

/-! ### Shifts and rotates -/

theorem toNat_shiftLeft_one (a : Byte) : (a <<< 1).toNat = 2 * a.toNat % 256 := by
  rw [BitVec.toNat_shiftLeft, Nat.shiftLeft_eq, Nat.mul_comm]

theorem toNat_ushiftRight_one (a : Byte) : (a >>> 1).toNat = a.toNat / 2 := by
  rw [BitVec.toNat_ushiftRight, Nat.shiftRight_eq_div_pow]

/-- ROL appends the old C below the register. -/
theorem rolOut_r (a : Byte) (v c : Bool) : (rolOut a v c).r = a.shiftConcat c := by
  apply BitVec.eq_of_getLsbD_eq
  intro i hi
  simp only [rolOut, outOf, BitVec.getLsbD_or, BitVec.getLsbD_shiftLeft, getLsbD_carryByte, BitVec.getLsbD_shiftConcat]
  cases i <;> simp [hi]

/-- ROR puts the old C above the upper seven bits of the register. -/
theorem rorOut_r (a : Byte) (v c : Bool) : (rorOut a v c).r = BitVec.cons c (a.extractLsb' 1 7) := by
  apply BitVec.eq_of_getLsbD_eq
  intro i hi
  simp only [rorOut, outOf, BitVec.getLsbD_or, BitVec.getLsbD_ushiftRight, BitVec.getLsbD_shiftLeft,
    getLsbD_carryByte, BitVec.getLsbD_cons, BitVec.getLsbD_extractLsb']
  rcases Nat.lt_succ_iff_lt_or_eq.mp hi with hlt | rfl
  · simp [hlt, hlt.ne]
  · simp

/-- ROL on the nine bits of C and the register: the upper bit leaves into C. -/
theorem rolOut_nine_bits (a : Byte) (v c : Bool) :
    (rolOut a v c).c.toNat * 256 + (rolOut a v c).r.toNat = 2 * a.toNat + c.toNat := by
  have ha := a.isLt
  have hc := c.toNat_lt
  have hbit : (rolOut a v c).c.toNat = a.toNat / 2 ^ 7 % 2 := Nat.toNat_testBit a.toNat 7
  rw [hbit, rolOut_r, BitVec.toNat_shiftConcat, Nat.shiftLeft_eq]
  omega

/-- ROR on the nine bits of the register and C: the lower bit leaves into C. -/
theorem rorOut_nine_bits (a : Byte) (v c : Bool) :
    2 * (rorOut a v c).r.toNat + (rorOut a v c).c.toNat = c.toNat * 256 + a.toNat := by
  have ha := a.isLt
  have hbit : (rorOut a v c).c.toNat = a.toNat / 2 ^ 0 % 2 := Nat.toNat_testBit a.toNat 0
  rw [hbit, rorOut_r, BitVec.toNat_cons', BitVec.extractLsb'_toNat, Nat.shiftLeft_eq, Nat.shiftRight_eq_div_pow]
  omega

theorem rorOut_n (a : Byte) (v c : Bool) : (rorOut a v c).n = c := by
  have hn : (rorOut a v c).n = (rorOut a v c).r.msb := (BitVec.msb_eq_getLsbD_last _).symm
  rw [hn, rorOut_r]
  exact BitVec.msb_cons

/-! ### The state that an inherent operation answers -/

section
variable (s : State) (op : UnaryOp) (r : Acc)

theorem nextPc_unary : s.nextPc (.unary op r) = s.pc + 1 := by
  cases op <;> cases r <;> rfl

theorem exec_unary : exec (.unary op r) s = .next ((s.unary op r).advance (.unary op r)) := by
  cases op <;> cases r <;> rfl

/-- Every operation takes Z and N from its result. -/
theorem unaryOut_eq_outOf (p : Params) (a : Byte) (v c : Bool) : ∃ w v' c', unaryOut p op a v c = outOf w v' c' := by
  cases op <;> exact ⟨_, _, _, rfl⟩

theorem unaryOut_z_iff (p : Params) (a : Byte) (v c : Bool) :
    (unaryOut p op a v c).z = true ↔ (unaryOut p op a v c).r.toNat = 0 := by
  obtain ⟨w, v', c', h⟩ := unaryOut_eq_outOf op p a v c
  rw [h]
  exact beq_zero_iff_toNat w

theorem unaryOut_n_iff (p : Params) (a : Byte) (v c : Bool) :
    (unaryOut p op a v c).n = true ↔ 128 ≤ (unaryOut p op a v c).r.toNat := by
  obtain ⟨w, v', c', h⟩ := unaryOut_eq_outOf op p a v c
  rw [h]
  exact getLsbD_seven_iff w

/-- An operation that leaves V writes its register, Z, N and C, and moves on by one line and one byte. -/
theorem exec_unary_of_keeps_v {o : AluOut} (ho : unaryOut s.params op (s.acc r) s.v s.c = o) (hv : o.v = s.v) :
    ∃ t, exec (.unary op r) s = .next t ∧
      t = { s.setAcc r (t.acc r) with z := t.z, n := t.n, c := t.c, line := s.line + 1, pc := s.pc + 1 } ∧
      t.acc r = o.r ∧ t.c = o.c ∧ t.n = o.n ∧
      (t.z = true ↔ (t.acc r).toNat = 0) ∧ (t.n = true ↔ 128 ≤ (t.acc r).toNat) := by
  have hacc : ((s.unary op r).advance (.unary op r)).acc r = o.r := by simp [State.unary, ho]
  refine ⟨_, exec_unary s op r, ?_, hacc, ?_, ?_, ?_, ?_⟩
  · rw [hacc, State.advance, nextPc_unary, State.unary, ho, State.setNZVC, hv]
    cases r <;> rfl
  · simp [State.unary, ho]
  · simp [State.unary, ho]
  · rw [hacc, ← ho]
    exact unaryOut_z_iff op _ _ _ _
  · rw [hacc, ← ho]
    exact unaryOut_n_iff op _ _ _ _

end

/-! ### The statements -/

/-- Settles O35: V is not among the flags that LSL and LSR compute. -/
theorem shiftResult : Obligations.ShiftResult := by
  intro s r
  refine ⟨rfl, ?_, ?_⟩
  · obtain ⟨t, hx, hframe, hacc, hc, -, hz, hn⟩ := exec_unary_of_keeps_v s .lsl r rfl rfl
    have hacc' : t.acc r = s.acc r <<< 1 := hacc
    have hc' : t.c = (s.acc r).getLsbD 7 := hc
    refine ⟨t, hx, hframe, ?_, ?_, hz, hn⟩
    · rw [hacc', toNat_shiftLeft_one]
    · rw [hc', getLsbD_seven_iff]
  · obtain ⟨t, hx, hframe, hacc, hc, hn, hz, -⟩ := exec_unary_of_keeps_v s .lsr r rfl rfl
    have hacc' : t.acc r = s.acc r >>> 1 := hacc
    have hc' : t.c = (s.acc r).getLsbD 0 := hc
    have hn' : t.n = (s.acc r >>> 1).getLsbD 7 := hn
    refine ⟨t, hx, hframe, ?_, ?_, hz, ?_⟩
    · rw [hacc', toNat_ushiftRight_one]
    · rw [hc', getLsbD_zero_iff]
    · rw [hn']
      simp

/-- Settles O36, on the nine bits of C and the register. -/
theorem rotateResult : Obligations.RotateResult := by
  intro s r
  refine ⟨rfl, ?_, ?_⟩
  · obtain ⟨t, hx, hframe, hacc, hc, -, hz, hn⟩ :=
      exec_unary_of_keeps_v s .rol r (o := rolOut (s.acc r) s.v s.c) rfl rfl
    refine ⟨t, hx, hframe, ?_, hz, hn⟩
    rw [hacc, hc, rolOut_nine_bits]
  · obtain ⟨t, hx, hframe, hacc, hc, hn, hz, -⟩ :=
      exec_unary_of_keeps_v s .ror r (o := rorOut (s.acc r) s.v s.c) rfl rfl
    refine ⟨t, hx, hframe, ?_, hz, hn.trans (rorOut_n _ _ _)⟩
    rw [hacc, hc, rorOut_nine_bits]

/-- Settles O34: `outOf` takes Z and N from the result, and V is the comparison with 0x7F or 0x80 of
`incOut` and `decOut`. -/
theorem incrementDecrementResult : Obligations.IncrementDecrementResult := fun s =>
  ⟨rfl, exec_unary s .inc .a, exec_unary s .inc .b, exec_unary s .dec .a, exec_unary s .dec .b⟩

end Sys2Proof.Machine
end

section
/-!
The bitwise and unary family (44_bitwise_unary.md): the opcode and the size of each row of AND, OR and EOR, the state
that each operation answers, and the result bit by bit.
-/
namespace Sys2Proof
open Machine

/-! ### The rows of a bitwise operation -/

theorem logic_operand (op : LogicOp) (r : Acc) (src : Src8) : (Instr.logic op r src).operand = src.operand := by
  cases op <;> cases r <;> rcases src with _ | (_ | _ | _) <;> rfl

theorem logic_opcode (op : LogicOp) (r : Acc) (src : Src8) :
    (Instr.logic op r src).opcode =
      match op, r with
      | .and, .a => [src.pick 0x84 0x94 0xA4 0xB4]
      | .and, .b => [src.pick 0xC4 0xD4 0xE4 0xF4]
      | .or, .a => [src.pick 0x8A 0x9A 0xAA 0xBA]
      | .or, .b => [src.pick 0xCA 0xDA 0xEA 0xFA]
      | .eor, .a => [src.pick 0x88 0x98 0xA8 0xB8]
      | .eor, .b => [src.pick 0xC8 0xD8 0xE8 0xF8] := by
  cases op <;> cases r <;> rcases src with _ | (_ | _ | _) <;> rfl

end Sys2Proof

namespace Sys2Proof.Machine

/-! ### Results and their flags -/

theorem getLsbD_logicOut (op : LogicOp) (a m : Byte) (k : Nat) :
    (logicOut op a m).getLsbD k =
      match op with
      | .and => a.getLsbD k && m.getLsbD k
      | .or => a.getLsbD k || m.getLsbD k
      | .eor => a.getLsbD k != m.getLsbD k := by
  cases op with
  | and => exact BitVec.getLsbD_and
  | or => exact BitVec.getLsbD_or
  | eor => exact BitVec.getLsbD_xor

/-- `0xFF - a` is the complement, so its Z and N are read off the old register. -/
theorem comOut_eq (p : Params) (a : Byte) (v : Bool) :
    comOut p a v = { r := ~~~a, n := !a.getLsbD 7, z := decide (a = 0xFF), v := v, c := p.comCarry } := by
  have hr : 0xFF - a = ~~~a := a.allOnes_sub_eq_not
  have hn : (~~~a).getLsbD 7 = !a.getLsbD 7 := by simp
  have hz : (~~~a == 0) = decide (a = 0xFF) := decide_eq_decide.mpr BitVec.not_eq_comm
  rw [comOut, hr, outOf, hn, hz]

/-- `0 - a` is the negation, which is 0 only for 0. -/
theorem negOut_eq (a : Byte) (v : Bool) :
    negOut a v = { r := -a, n := (-a).getLsbD 7, z := decide (a = 0), v := v, c := decide (a ≠ 0) } := by
  have hr : 0 - a = -a := a.zero_sub
  have hz : (-a == 0) = decide (a = 0) := decide_eq_decide.mpr BitVec.neg_eq_zero_iff
  have hc : (a != 0) = decide (a ≠ 0) := decide_not.symm
  rw [negOut, hr, outOf, hz, hc]

/-! ### The state that an operation answers -/

section
variable (s : State) (op : LogicOp) (r : Acc) (src : Src8)

@[simp] theorem State.acc_logic : (s.logic op r src).acc r = logicOut op (s.acc r) (s.operand8 src) :=
  s.acc_setAcc_same r _

theorem nextPc_logic : s.nextPc (.logic op r src) = s.pc + src.pick 2 2 3 3 := by
  rw [State.nextPc, Instr.size, logic_opcode, logic_operand, operandSize_src8]
  cases op <;> cases r <;> rcases src with _ | (_ | _ | _) <;> rfl

theorem exec_logic : exec (.logic op r src) s = .next ((s.logic op r src).advance (.logic op r src)) := by
  cases op <;> cases r <;> rcases src with _ | (_ | _ | _) <;> rfl

end

/-- An inherent operation writes its register and the flags of its result, and moves on by one line and one byte. -/
theorem exec_unary_of_out (s : State) (op : UnaryOp) (r : Acc) {o : AluOut}
    (ho : unaryOut s.params op (s.acc r) s.v s.c = o) :
    exec (.unary op r) s = .next { (s.setAcc r o.r).setNZVC o with line := s.line + 1, pc := s.pc + 1 } := by
  rw [exec_unary, State.advance, nextPc_unary, State.unary, ho]
  cases r <;> rfl

/-! ### The statements -/

/-- Settles O37: `State.logic` writes `logicOut`, whose bits are those of the operation. -/
theorem bitwiseResult : Obligations.BitwiseResult := by
  intro s op r src
  have hacc : ((s.logic op r src).advance (.logic op r src)).acc r = logicOut op (s.acc r) (s.operand8 src) := by
    rw [State.acc_advance, State.acc_logic]
  refine ⟨logic_opcode op r src, _, exec_logic s op r src, ?_, fun k _ => ?_⟩
  · rw [hacc, State.advance, nextPc_logic]
    cases r <;> rfl
  · rw [hacc]
    exact getLsbD_logicOut op _ _ k

/-- Settles O38: each result keeps the V it is given, and its Z, N and C are those of R340, R342 and R344. -/
theorem clearComplementNegateResult : Obligations.ClearComplementNegateResult := fun s =>
  ⟨rfl, exec_unary_of_out s .clr .a rfl, exec_unary_of_out s .clr .b rfl,
    exec_unary_of_out s .com .a (comOut_eq s.params s.a s.v), exec_unary_of_out s .com .b (comOut_eq s.params s.b s.v),
    exec_unary_of_out s .neg .a (negOut_eq s.a s.v), exec_unary_of_out s .neg .b (negOut_eq s.b s.v)⟩

end Sys2Proof.Machine
end

section
/-!
The register move family (45_register_move.md): when a move raises, the value that a written register reads as, and what
a move leaves unchanged; and the byte strings of 95_test_vectors.md, read back through the round trip of the decoder.
-/
namespace Sys2Proof
open Machine

/-! ### Byte strings without an instruction -/

theorem findRow_eq_none {b : Byte} (h : ∀ r ∈ rom, r.opcode.head? ≠ some b) (p : Params) (rest : List Byte) :
    findRow p (b :: rest) = none := by
  refine List.find?_eq_none.mpr fun r hr hf => ?_
  cases ho : r.opcode with
  | nil => simp [ho] at hf
  | cons c cs =>
    obtain ⟨⟨rfl, -⟩, -⟩ : (c = b ∧ cs <+: rest) ∧ r.mnemonic.admitted p = true := by simpa [ho] using hf
    exact h r hr (by rw [ho, List.head?_cons])

theorem decode_noRow {b : Byte} (h : ∀ r ∈ rom, r.opcode.head? ≠ some b) (p : Params) (rest : List Byte) :
    decode p (b :: rest) = .error .noRow := by
  simp only [decode, findRow_eq_none h]

/-- The TFR row stands, and the operand decoder refuses its post-byte (R364; log 21). -/
theorem decode_tfr_noRegister {pb : Byte} (h : PairReg.ofCode (pb.extractLsb' 4 4) = none) (p : Params)
    (rest : List Byte) : decode p (0x1F :: pb :: rest) = .error (.noRegister (pb.extractLsb' 4 4)) := by
  have hrow : findRow p ([0x1F] ++ pb :: rest) = some ⟨.tfr, .registerPair, [0x1F]⟩ :=
    findRow_opcode (Instr.tfr .a .b).row_mem nofun rfl _
  rw [List.singleton_append] at hrow
  simp only [decode, hrow, List.length_singleton, List.drop_one, List.tail_cons, decodeOperand, h]

/-! ### The words of the spec -/

theorem decode_encode (p : Params) (i : Instr) (hend : i ≠ .endProgram) (hlabel : i.label? = none)
    (hbyte : ∀ ii, i.operand ≠ .imm16 (.byte ii)) : decode p (encode (fun _ => 0) 0 i) = .ok (i, []) := by
  have h := decodeInvertsEncode p (fun _ => 0) 0 i [] hend hlabel hbyte
  rwa [List.append_nil] at h

/-- Settles O1: the nine byte strings are encodings, no opcode string begins with 3D, and F is no register's code. -/
theorem specWordsDecode : Obligations.SpecWordsDecode :=
  ⟨decode_encode _ (.ldaImmediate 0x10) nofun rfl nofun,
    decode_encode _ (.ldyExtended 0x0030) nofun rfl nofun,
    decode_encode _ (.stsIndexed .s 0xFE) nofun rfl nofun,
    decode_encode _ (.tfr .a .b) nofun rfl nofun,
    decode_encode _ (.exg .u .s) nofun rfl nofun,
    decode_encode _ (.addaImmediate 0xFF) nofun rfl nofun,
    decode_encode _ (.addbIndexed .x 0x00) nofun rfl nofun,
    decode_encode _ .inca nofun rfl nofun,
    decode_encode _ .swi nofun rfl nofun,
    decode_noRow (by decide +kernel) _ [],
    decode_tfr_noRegister rfl _ []⟩

end Sys2Proof

namespace Sys2Proof.Machine

/-! ### When a move raises, and what it writes -/

/-- `t` is `s` but for the registers that TFR and EXG can name (R127). -/
def MovesOnly (s t : State) : Prop :=
  t = { s with a := t.a, b := t.b, x := t.x, y := t.y, u := t.u, s := t.s }

theorem MovesOnly.trans {s t u : State} (hst : MovesOnly s t) (htu : MovesOnly t u) : MovesOnly s u :=
  Eq.trans htu <|
    congrArg (fun w : State => { w with a := u.a, b := u.b, x := u.x, y := u.y, u := u.u, s := u.s }) hst

section
variable (s : State) (r r1 r2 : PairReg) (v : Word)

theorem State.moveRaises_iff :
    s.moveRaises r1 r2 = true ↔
      r1 = .d ∨ r2 = .d ∨ (pairIs8 r1 ≠ pairIs8 r2 ∧ s.params.mixedWidthMove = .fault) := by
  simp [State.moveRaises, or_assoc]

theorem MovesOnly.setPairReg : MovesOnly s (s.setPairReg r v) := by
  cases r <;> rfl

/-- An 8-bit register keeps the low byte, and D keeps nothing (R362, R363). -/
theorem State.pairReg_setPairReg_same (hr : r ≠ .d) : (s.setPairReg r v).pairReg r = moveValue r v := by
  have hbyte : (loByte v).zeroExtend 16 = BitVec.ofNat 16 (v.toNat % 256) := by
    apply BitVec.eq_of_toNat_eq
    simp [toNat_loByte]
  cases r with
  | d => exact absurd rfl hr
  | a | b => exact hbyte
  | x | y | u | s => rfl

@[simp] theorem State.pairReg_advance (i : Instr) : (s.advance i).pairReg r = s.pairReg r := by
  cases r <;> rfl

/-! ### The state that a move answers -/

theorem transfer_of_raises (i : Instr) (h : s.moveRaises r1 r2 = true) :
    transfer i r1 r2 s = .next (s.raise .unknownRegister) := by
  rw [transfer, if_pos h]

theorem transfer_of_not_raises (i : Instr) (h : ¬ s.moveRaises r1 r2 = true) :
    transfer i r1 r2 s = .next ((s.setPairReg r2 (s.pairReg r1)).advance i) := by
  rw [transfer, if_neg h, continueAfter]

theorem exchange_of_raises (i : Instr) (h : s.moveRaises r1 r2 = true) :
    exchange i r1 r2 s = .next (s.raise .unknownRegister) := by
  rw [exchange, if_pos h]

theorem exchange_of_not_raises (i : Instr) (h : ¬ s.moveRaises r1 r2 = true) :
    exchange i r1 r2 s =
      .next (((s.setPairReg r2 (s.pairReg r1)).setPairReg r1 (s.pairReg r2)).advance i) := by
  rw [exchange, if_neg h, continueAfter]

end

/-- A move of two bytes that goes on: line and pc advance with the registers (R214). -/
theorem MovesOnly.advance {s t : State} {i : Instr} (h : MovesOnly s t) (hi : i.size = 2) :
    t.advance i = { s with
      a := (t.advance i).a, b := (t.advance i).b, x := (t.advance i).x, y := (t.advance i).y, u := (t.advance i).u,
      s := (t.advance i).s, line := s.line + 1, pc := s.pc + 2 } := by
  have hpc : t.nextPc i = t.pc + 2 := by rw [State.nextPc, hi]; rfl
  have hadvance : t.advance i = { t with line := t.line + 1, pc := t.pc + 2 } := by rw [State.advance, hpc]
  exact hadvance.trans (congrArg (fun w : State => { w with line := w.line + 1, pc := w.pc + 2 }) h)

/-! ### The statements -/

/-- Settles O39: a move that does not raise is one write, which reads back as `moveValue`. -/
theorem transferResult : Obligations.TransferResult := by
  intro s r1 r2
  rw [← s.moveRaises_iff]
  refine ⟨fun _ _ => rfl, transfer_of_raises s r1 r2 _, fun hmove => ?_⟩
  have hr2 : r2 ≠ .d := fun h => hmove ((s.moveRaises_iff r1 r2).mpr (.inr (.inl h)))
  refine ⟨_, transfer_of_not_raises s r1 r2 _ hmove, (MovesOnly.setPairReg s r2 _).advance rfl, ?_, fun r hr => ?_⟩
  · rw [State.pairReg_advance, s.pairReg_setPairReg_same r2 _ hr2]
  · rw [State.pairReg_advance, s.pairReg_setPairReg_other r2 r _ hr]

/-- Settles O40: the two values are read before the writes, and the second write reaches r2 only where r1 is r2, whose
value both writes hold. -/
theorem exchangeResult : Obligations.ExchangeResult := by
  intro s r1 r2
  rw [← s.moveRaises_iff]
  refine ⟨fun _ _ => rfl, exchange_of_raises s r1 r2 _, fun hmove => ?_⟩
  have hr1 : r1 ≠ .d := fun h => hmove ((s.moveRaises_iff r1 r2).mpr (.inl h))
  have hr2 : r2 ≠ .d := fun h => hmove ((s.moveRaises_iff r1 r2).mpr (.inr (.inl h)))
  have hframe := (MovesOnly.setPairReg s r2 (s.pairReg r1)).trans (.setPairReg _ r1 (s.pairReg r2))
  refine ⟨_, exchange_of_not_raises s r1 r2 _ hmove, hframe.advance rfl, ?_, ?_, fun r hne1 hne2 => ?_⟩
  · rw [State.pairReg_advance, State.pairReg_setPairReg_same _ _ _ hr1]
  · rw [State.pairReg_advance]
    by_cases heq : r2 = r1
    · subst heq
      exact State.pairReg_setPairReg_same _ _ _ hr2
    · rw [State.pairReg_setPairReg_other _ _ _ _ heq, s.pairReg_setPairReg_same _ _ hr2]
  · rw [State.pairReg_advance, State.pairReg_setPairReg_other _ _ _ _ hne1, s.pairReg_setPairReg_other _ _ _ hne2]

end Sys2Proof.Machine
end

section
/-!
The control transfer family (46_control_transfer.md): what a branch, a call and a return answer in each of their cases,
and that the return scan finds the line after a call.
-/
namespace Sys2Proof.Machine

/-! ### The answer of each operation -/

section
variable {i : Instr} {k : Cond} {l : Label} {s : State}

theorem transferTo_of_bound {t : Nat} (h : s.labels.lookup l = some t) : transferTo l s = .next (s.goto t) := by
  simp only [transferTo, h]

theorem branch_of_holds (h : s.holds k = true) : branch i k l s = transferTo l s := if_pos h

theorem branch_of_not_holds (h : s.holds k = false) : branch i k l s = .next (s.advance i) := by
  simp only [branch, h, Bool.false_eq_true, if_false, continueAfter]

theorem State.stackFull_iff : s.stackFull = true ↔ s.params.callStackDepth = some s.callStack.length := beq_iff_eq

theorem call_of_full (h : s.stackFull = true) : call i l s = .next (s.raise .callStackOverflow) := if_pos h

theorem call_of_room (h : ¬ s.stackFull = true) : call i l s = transferTo l (s.push (s.nextPc i)) := if_neg h

theorem returnFromCall_of_nil (h : s.callStack = []) : returnFromCall s = .next (s.halt .returnEmpty) := by
  simp only [returnFromCall, h, List.getLast?_nil]

section
variable {st : List Word} {a : Word} (hstack : s.callStack = st ++ [a])
include hstack

theorem returnFromCall_of_found {j : Nat} (hj : s.lineAt? a = some j) :
    returnFromCall s = .next { s with callStack := st, line := j, pc := a } := by
  simp only [returnFromCall, hstack, List.getLast?_concat, hj, State.pop, List.dropLast_concat]

theorem returnFromCall_of_lost (hnone : s.lineAt? a = none) :
    returnFromCall s = .next (s.raise .returnAddressNotFound) := by
  simp only [returnFromCall, hstack, List.getLast?_concat, hnone]

end

/-! ### The return scan -/

/-- The converse of `State.lineAt?_eq_some`. -/
theorem State.lineAt?_of_least {a : Word} {j : Nat} (hj : j < s.stream.length) (haddr : s.addr j = a.toNat)
    (hleast : ∀ m, m < j → s.addr m ≠ a.toNat) : s.lineAt? a = some j := by
  cases hscan : s.lineAt? a with
  | none => exact absurd haddr (State.lineAt?_eq_none hscan j hj)
  | some j' =>
    obtain ⟨_, haddr', hleast'⟩ := State.lineAt?_eq_some hscan
    rcases Nat.lt_trichotomy j' j with hlt | rfl | hgt
    · exact absurd haddr' (hleast j' hlt)
    · rfl
    · exact absurd haddr (hleast' j hgt)

/-- The converse of `State.lineAt?_eq_none`. -/
theorem State.lineAt?_of_not_found {a : Word} (h : ∀ j, j < s.stream.length → s.addr j ≠ a.toNat) :
    s.lineAt? a = none := by
  cases hscan : s.lineAt? a with
  | none => rfl
  | some j =>
    obtain ⟨hj, haddr, _⟩ := State.lineAt?_eq_some hscan
    exact absurd haddr (h j hj)

/-- The scan reads the program and nothing else of the state. -/
theorem State.lineAt?_congr {w : State} (hstream : w.stream = s.stream) (hparams : w.params = s.params) (a : Word) :
    w.lineAt? a = s.lineAt? a := by
  simp only [State.lineAt?, State.addr, hstream, hparams]

/-- R396: an instruction with bytes puts every line up to its own below its next address, so the line after it is the
least one there. -/
theorem State.Sound.lineAt?_nextPc (h : s.Sound) (hs : s.status ≠ .notAssembled) (hf : fetch s = .instr i)
    (hi : i ≠ .endProgram) : s.lineAt? (s.nextPc i) = some (s.line + 1) := by
  obtain ⟨hprog, _, _⟩ := h.assembled hs
  obtain ⟨ln, hln, hsize⟩ := fetch_instr hf
  have hpos : i.size ≠ 0 := fun h0 => hi (Instr.size_eq_zero h0)
  have hsucc : s.addr (s.line + 1) = s.addr s.line + i.size := hsize ▸ lineAddr_succ hln
  refine State.lineAt?_of_least (hprog.succ_lt_length hln (hsize ▸ hpos)) (h.toNat_nextPc hs hf).symm fun m hm => ?_
  rw [h.toNat_nextPc hs hf]
  have hle : s.addr m ≤ s.addr s.line := lineAddr_mono (Nat.le_of_lt_succ hm)
  omega

/-! ### A call and its return -/

theorem exec_eq_call (hi : i.mnemonic = .jsr ∨ i.mnemonic = .bsr) : ∃ l, exec i s = call i l s := by
  cases i with
  | jsr l | bsr l => exact ⟨l, rfl⟩
  | _ => rcases hi with hi | hi <;> cases hi

/-- A call that does not overflow has pushed its next address, and the program is as it was. -/
theorem call_running {t : State} (h : call i l s = .next t) (ht : t.status = .running) :
    t.callStack = s.callStack ++ [s.nextPc i] ∧ t.stream = s.stream ∧ t.params = s.params := by
  rcases call_next h with ⟨_, rfl⟩ | ⟨_, j, _, rfl⟩
  · cases ht
  · exact ⟨rfl, rfl, rfl⟩

theorem step_of_running (hs : s.status = .running) (hf : fetch s = .instr i) : step s = exec i s := by
  have hbegin : s.begin = s := by rw [State.begin, ← hs]
  rw [step_of_live (.inr hs), hf, hbegin]

end

/-! ### The statements -/

/-- Settles O43: the scan finds the least line with the top address, or no line has it. -/
theorem returnResult : Obligations.ReturnResult := fun _ =>
  ⟨rfl, returnFromCall_of_nil,
    fun _ _ _ hstack hj haddr hleast => returnFromCall_of_found hstack (State.lineAt?_of_least hj haddr hleast),
    fun _ _ hstack hnone => returnFromCall_of_lost hstack (State.lineAt?_of_not_found hnone)⟩

/-- Settles O44: the call pushes its next address, and the scan of an RTS with that stack finds the line after it. -/
theorem returnResumesAfterCall : Obligations.ReturnResumesAfterCall := by
  intro s t w i hsound hlive hfetch hi hstep hrun hstream hparams hstack hwrun hwfetch
  have hs := ne_notAssembled_of_live hlive
  obtain ⟨l, hcall⟩ := exec_eq_call (s := s.begin) hi
  rw [step_of_live hlive, hfetch] at hstep
  obtain ⟨htstack, htstream, htparams⟩ := call_running (hcall.symm.trans hstep) hrun
  have hend : i ≠ .endProgram := by
    rintro rfl
    rcases hi with hi | hi <;> cases hi
  have hline : w.lineAt? (s.nextPc i) = some (s.line + 1) := by
    rw [State.lineAt?_congr (hstream.trans htstream) (hparams.trans htparams)]
    exact hsound.lineAt?_nextPc hs hfetch hend
  calc step w = returnFromCall w := step_of_running hwrun hwfetch
    _ = _ := returnFromCall_of_found (hstack.trans htstack) hline

/-- Settles O41: every conditional branch is the one operation `branch`, with its condition. -/
theorem branchResult : Obligations.BranchResult := by
  intro s l
  refine ⟨fun _ _ => rfl, fun _ => transferTo_of_bound, ?_⟩
  intro k taken
  have htaken : taken = s.holds k := by cases k <;> rfl
  have hexec : exec (.branch k l) s = branch (.branch k l) k l s := by cases k <;> rfl
  have hadvance : s.advance (.branch k l) = { s with line := s.line + 1, pc := s.pc + 2 } := by cases k <;> rfl
  rw [htaken, hexec, ← hadvance]
  refine ⟨fun _ _ => ?_, fun hk t ht => ?_, branch_of_not_holds⟩
  · cases k <;> rfl
  · exact (branch_of_holds hk).trans (transferTo_of_bound ht)

/-- Settles O42: a call is an overflow, or a push and then a transfer, which the push does not redirect. -/
theorem callResult : Obligations.CallResult := by
  intro s l
  rw [← State.stackFull_iff, ne_eq, ← State.stackFull_iff]
  refine ⟨fun _ _ => rfl, fun _ _ => rfl, fun hfull => ⟨call_of_full hfull, call_of_full hfull⟩, fun hroom t ht => ?_⟩
  exact ⟨(call_of_room hroom).trans (transferTo_of_bound ht), (call_of_room hroom).trans (transferTo_of_bound ht)⟩

end Sys2Proof.Machine
end

section
/-!
The system family (47_system.md): SWI and END answer the halt of the state, NOP answers its advance by one byte.
-/
namespace Sys2Proof.Machine

/-! ### The answer of each instruction -/

section
variable (s : State)

theorem exec_swi : exec .swi s = .next (s.halt .swi) := rfl

theorem exec_endProgram : exec .endProgram s = .next (s.halt .programEnd) := rfl

theorem exec_nop : exec .nop s = .next (s.advance .nop) := rfl

theorem size_nop : Instr.nop.size = 1 := rfl

theorem nextPc_nop : s.nextPc .nop = s.pc + 1 := by
  rw [State.nextPc, size_nop]
  rfl

/-- NOP is an advance alone, and its one opcode byte is all that `pc` moves by. -/
theorem advance_nop : s.advance .nop = { s with line := s.line + 1, pc := s.pc + 1 } := by
  rw [State.advance, nextPc_nop]

end

/-! ### The statement -/

/-- Settles O45: SWI and END are a halt, NOP an advance by its size. -/
theorem systemResult : Obligations.SystemResult := by
  intro s
  refine ⟨rfl, exec_swi s, exec_endProgram s, ?_⟩
  rw [exec_nop, advance_nop]

end Sys2Proof.Machine
end

section
/-!
The exceptions family (60_exceptions.md): the ways a step can end halted, said once, and what the host's commands do in
`Halted`.
-/
namespace Sys2Proof.Machine

/-! ### What the line of a halting step holds -/

theorem Instr.eq_move {i : Instr} (hi : i.mnemonic = .tfr ∨ i.mnemonic = .exg) :
    ∃ r1 r2, i = .tfr r1 r2 ∨ i = .exg r1 r2 := by
  cases i with
  | tfr r1 r2 => exact ⟨r1, r2, .inl rfl⟩
  | exg r1 r2 => exact ⟨r1, r2, .inr rfl⟩
  | _ => rcases hi with hi | hi <;> cases hi

theorem Instr.eq_call {i : Instr} (hi : i.mnemonic = .jsr ∨ i.mnemonic = .bsr) :
    ∃ l, i = .jsr l ∨ i = .bsr l := by
  cases i with
  | jsr l => exact ⟨l, .inl rfl⟩
  | bsr l => exact ⟨l, .inr rfl⟩
  | _ => rcases hi with hi | hi <;> cases hi

theorem readLine_ne_exhausted (p : Params) (ln : Line) : readLine p ln ≠ .exhausted := by
  intro h
  cases ln with
  | blank => cases h
  | instr mn op =>
    simp only [readLine] at h
    split at h
    · cases h
    · split at h <;> cases h

/-- The converse of `fetch_of_length_le`: a line that is there holds something. -/
theorem length_le_of_fetch_exhausted {s : State} (h : fetch s = .exhausted) : s.stream.length ≤ s.line := by
  by_contra hlt
  have hln := List.getElem?_eq_getElem (Nat.lt_of_not_le hlt)
  exact readLine_ne_exhausted _ _ ((fetch_of_line hln).symm.trans h)

/-! ### The steps that halt -/

/-- A step from `s` to `t` that halts for the reason given, by what the fetch of `s` finds: the four normal halts of
R506 and the four execution errors of R500. -/
inductive HaltShape (s t : State) : HaltReason → Prop where
  | programEnd (hf : fetch s = .instr .endProgram) (ht : t = s.halt .programEnd) : HaltShape s t .programEnd
  | swi (hf : fetch s = .instr .swi) (ht : t = s.halt .swi) : HaltShape s t .swi
  | returnEmpty (hf : fetch s = .instr .rts) (hstack : s.callStack = []) (ht : t = s.halt .returnEmpty) :
      HaltShape s t .returnEmpty
  | exhausted (hf : fetch s = .exhausted) (ht : t = s.halt .exhausted) : HaltShape s t .exhausted
  | moveRaised (r1 r2 : PairReg) (hf : fetch s = .instr (.tfr r1 r2) ∨ fetch s = .instr (.exg r1 r2))
      (ht : t = s.raise .unknownRegister) : HaltShape s t (.fault .unknownRegister)
  | overflowed (l : Label) (hf : fetch s = .instr (.jsr l) ∨ fetch s = .instr (.bsr l)) (hfull : s.stackFull = true)
      (ht : t = s.raise .callStackOverflow) : HaltShape s t (.fault .callStackOverflow)
  | lost (hf : fetch s = .instr .rts) (ht : t = s.raise .returnAddressNotFound) :
      HaltShape s t (.fault .returnAddressNotFound)
  | unknown (hf : fetch s = .unknownMnemonic) (ht : t = s.raise .unsupportedInstruction) :
      HaltShape s t (.fault .unsupportedInstruction)

section
variable {s t : State} {r : HaltReason}

/-- An instruction halts by a halt or a raise of its own, which overwrite the status that `begin` set; all that
continues or transfers is still `Running`. -/
theorem exec_haltShape {i : Instr} (hf : fetch s = .instr i) (hx : exec i s.begin = .next t)
    (hr : t.status = .halted r) : HaltShape s t r := by
  cases exec_shape hx with
  | continued u hu ht =>
    rw [ht, State.advance_status, hu.status] at hr
    cases hr
  | transferred _ _ _ _ ht | called _ _ _ _ _ _ ht | returned _ _ _ _ _ ht =>
    rw [ht] at hr
    cases hr
  | halted r' hcause ht =>
    rw [ht] at hr
    cases hr
    rcases hcause with ⟨rfl, rfl⟩ | ⟨rfl, rfl⟩ | ⟨rfl, rfl, hstack⟩
    · exact .programEnd hf ht
    · exact .swi hf ht
    · exact .returnEmpty hf hstack ht
  | moveRaised hi ht =>
    rw [ht] at hr
    cases hr
    obtain ⟨r1, r2, rfl | rfl⟩ := Instr.eq_move hi
    · exact .moveRaised r1 r2 (.inl hf) ht
    · exact .moveRaised r1 r2 (.inr hf) ht
  | overflowed hi hfull ht =>
    rw [ht] at hr
    cases hr
    obtain ⟨l, rfl | rfl⟩ := Instr.eq_call hi
    · exact .overflowed l (.inl hf) hfull ht
    · exact .overflowed l (.inr hf) hfull ht
  | lost a hi _ _ ht =>
    rw [ht] at hr
    cases hr
    exact .lost (hi ▸ hf) ht

/-- Every step from `Ready` or `Running` that ends halted has one of these shapes. -/
theorem step_haltShape (hs : s.Live) (h : step s = .next t) (hr : t.status = .halted r) : HaltShape s t r := by
  cases step_shape h with
  | assembled hn _ => exact absurd hn (ne_notAssembled_of_live hs)
  | idle r' hr' _ => exact absurd ⟨r', hr'⟩ hs.not_halted
  | exhausted _ hf ht =>
    rw [ht] at hr
    cases hr
    exact .exhausted hf ht
  | blank _ _ ht =>
    rw [ht] at hr
    cases hr
  | ran i _ hf hx => exact exec_haltShape hf hx hr
  | unknown _ hf ht =>
    rw [ht] at hr
    cases hr
    exact .unknown hf ht

end

/-! ### The statements -/

/-- Settles O46: the four shapes of a step that ends in an error. -/
theorem raiseChangesNothingElse : Obligations.RaiseChangesNothingElse := by
  intro s t k hs h hk
  cases step_haltShape hs h hk with
  | moveRaised r1 r2 hf ht => exact ⟨ht, .inl ⟨rfl, r1, r2, hf⟩⟩
  | overflowed l hf hfull ht => exact ⟨ht, .inr (.inl ⟨rfl, State.stackFull_iff.mp hfull, l, hf⟩)⟩
  | lost hf ht => exact ⟨ht, .inr (.inr (.inl ⟨rfl, hf⟩))⟩
  | unknown hf ht => exact ⟨ht, .inr (.inr (.inr ⟨rfl, hf⟩))⟩

/-- Settles O47: the four shapes of a step that halts for a reason that is no error. -/
theorem haltChangesOnlyStatus : Obligations.HaltChangesOnlyStatus := by
  intro s t r hs h hr hnormal
  cases step_haltShape hs h hr with
  | programEnd hf ht => exact ⟨ht, .inl ⟨rfl, hf⟩⟩
  | swi hf ht => exact ⟨ht, .inr (.inl ⟨rfl, hf⟩)⟩
  | returnEmpty hf hstack ht => exact ⟨ht, .inr (.inr (.inl ⟨rfl, hf, hstack⟩))⟩
  | exhausted hf ht => exact ⟨ht, .inr (.inr (.inr ⟨rfl, length_le_of_fetch_exhausted hf⟩))⟩
  | moveRaised | overflowed | lost | unknown => exact absurd rfl (hnormal _)

/-- Settles O23: the halted cases of the commands (R212, R229), and the commands that reset from every state. -/
theorem haltedIsTerminal : Obligations.HaltedIsTerminal := by
  intro s r fuel hr
  have hs : s.Halted := ⟨r, hr⟩
  have hassembled : s.status ≠ .notAssembled := fun hn => nomatch hr.symm.trans hn
  obtain ⟨_, hassemble, _, hstep, _, _, hrun, hreset, _, hsave⟩ := hostCommands fuel s []
  exact ⟨step_of_halted hs, hstep hs, hrun hs, hsave, hreset, hassemble hassembled, fun _ => rfl⟩

end Sys2Proof.Machine
end
